-- ==== Sys2Proof/Word.lean ====
section
/-! DEFINITION. The word types of the arm-js MMU block: 32-bit words and addresses (00_scope.md R7), bytes, the
14-bit control-register key (30_encoding.md R66) and the 16-bit interrupt id (30_encoding.md R63). -/

namespace Sys2Proof

/-- A 32-bit word: a virtual or physical address, a command word, an operand, a control-register value (R7). -/
abbrev Word := BitVec 32

/-- One byte of RAM (10_state.md R33). -/
abbrev Byte := BitVec 8

/-- A packed control-register key, `major<<10 | op1<<7 | minor<<3 | op2` (30_encoding.md R66). -/
abbrev Key := BitVec 14

/-- An interrupt id, the 16-bit field of format I (30_encoding.md R63). -/
abbrev Irq := BitVec 16

/-- A one-bit field of a word from a Boolean. -/
def bit (b : Bool) : Word := if b then 1 else 0

@[simp] theorem bit_true : bit true = 1 := rfl
@[simp] theorem bit_false : bit false = 0 := rfl

end Sys2Proof
end

