-- ==== Sys2Proof/Config.lean ====
section
/-! DEFINITION. What one machine fixes and no command changes: the parameters of 00_scope.md R8 and 10_state.md R16.
They are plain data, held in `State.cfg`, so a statement about every state is a statement about every configuration.
The answers of the peripherals are the one free value of the model, the opaque constant `Config.periphDraw`. -/

namespace Sys2Proof

/-- The width of a memory access: byte, halfword or word (20_memory.md R45). -/
inductive Width where
  | byte
  | half
  | word
  deriving DecidableEq, Repr

/-- What lies behind a bus region (00_scope.md R8, `REGIONS`). -/
inductive RegionKind where
  | ram
  | periph (id : Nat)
  deriving DecidableEq, Repr

/-- One entry of `REGIONS`: `size` bytes from physical address `base` (20_memory.md R48). -/
structure Region where
  base : Word
  size : Nat
  kind : RegionKind
  deriving DecidableEq, Repr

/-- The access policy of a control-register slot (41_cp15.md R96). -/
inductive Policy where
  | ro
  | wo
  | rw
  deriving DecidableEq, Repr

/-- Where a read of an extra slot takes its value (10_state.md R28). -/
inductive ReadSource where
  | constant (c : Word)
  | storage
  deriving DecidableEq, Repr

/-- Where a write of an extra slot goes (10_state.md R28). -/
inductive WriteSink where
  | storage
  | ignore
  deriving DecidableEq, Repr

/-- One slot of `EXTRA_SLOTS` (10_state.md R28). -/
structure ExtraSlot where
  key : Key
  policy : Policy
  read : ReadSource
  write : WriteSink
  deriving DecidableEq, Repr

/-- The interrupt-controller operation an MMIO access stands for (D36: IRQACCEPT, IRQEOI and IRQENABLE), with where its
operand stands in the data written, which is part of `IC_MAP` too (42_interrupt.md R114): the id is the field of `len`
bits from bit `lo` up, the enable is bit `bit`. -/
inductive IcOp where
  | accept
  | eoi (lo len : Nat)
  | enable (bit : Fin 32)
  deriving DecidableEq, Repr

/-- One entry of `IC_MAP`: a guest MMIO read or write at a physical address (00_scope.md R8, 60_exceptions.md R145). -/
structure IcEntry where
  addr : Word
  isWrite : Bool
  op : IcOp
  deriving DecidableEq, Repr

/-- An access the Bus hands to a peripheral handler, with the offset and the width unchanged
(20_memory.md R42, 43_bus.md R120). -/
inductive PeriphEvent where
  | read (id : Nat) (off : Word) (w : Width)
  | write (id : Nat) (off : Word) (w : Width) (v : Word)
  deriving DecidableEq, Repr

/-- The parameters of 00_scope.md R8. `ramFill` and `ramImage` together are `RAM_INIT`: any map from addresses to
bytes that differs from one byte at finitely many addresses, so any contents a 32-bit machine can have.
`irqQueueDepth = none` is the unbounded queue that R8 allows. -/
structure Config where
  regions : List Region
  ramFill : Byte
  ramImage : List (Nat × Byte)
  sctlrFixedBit : Fin 32
  extraSlots : List ExtraSlot
  alignRecords : Bool
  irqCount : Nat
  irqQueueDepth : Option Nat
  icMap : List IcEntry
  atagBase : Word
  batchBudget : Nat
  entryPc : Word
  deriving DecidableEq, Repr

/-- DESIGN CHOICE (log 4; safe): the answer of the `PERIPH` oracle (43_bus.md R120), a FREE VALUE. It has no body, so
nothing can be proved of it. Its arguments are the number of the draw, every access delivered to a peripheral before it,
and the access itself: peripheral id, offset, width. -/
opaque Config.periphDraw : Nat → List PeriphEvent → Nat → Word → Width → Word

namespace Region

/-- The first address after the region. -/
def limit (r : Region) : Nat := r.base.toNat + r.size

/-- The region covers physical address `a`. -/
def covers (r : Region) (a : Nat) : Bool := r.base.toNat ≤ a && a < r.limit

/-- Two regions do not overlap: they share no address (20_memory.md R48). DESIGN CHOICE (log 20): a region of size 0, which
the spec does not speak of, covers no address and so overlaps none, wherever its base lies. -/
def disjoint (r q : Region) : Bool :=
  r.size == 0 || q.size == 0 || r.limit ≤ q.base.toNat || q.limit ≤ r.base.toNat

/-- A RAM region has a base and a size that are multiples of 4 (43_bus.md R117). DESIGN CHOICE (log 20): a region that runs
past the 32-bit physical space is refused; the spec does not say whether it is ill-formed, is cut off or wraps. -/
def wf (r : Region) : Bool :=
  r.limit ≤ 2 ^ 32 &&
    match r.kind with
    | .ram => r.base.toNat % 4 == 0 && r.size % 4 == 0
    | .periph _ => true

end Region

/-- No two regions overlap. -/
def regionsDisjoint : List Region → Bool
  | [] => true
  | r :: rs => rs.all r.disjoint && regionsDisjoint rs

/-- The ten keys of the named slots, in the order of 10_state.md R25. -/
def namedKeys : List Key :=
  [0x0400, 0x0800, 0x0801, 0x0802, 0x0C00, 0x1400, 0x1401, 0x1800, 0x1802, 0x3401]

/-- No two extra slots share a key, and none has the key of a named slot (10_state.md R28). -/
def extraKeysFresh : List ExtraSlot → Bool
  | [] => true
  | e :: es => !namedKeys.contains e.key && es.all (fun f => !(f.key == e.key)) && extraKeysFresh es

/-- What a configuration must satisfy for a machine to be assembled from it: the regions (20_memory.md R48,
43_bus.md R117, D47, and that none runs past 2^32, the model's choice, log 20), the fixed bit of SCTLR (R8: not 0, 1, 13 or 24), the extra slots (10_state.md R28), the number of
interrupt ids (R8: 1 to 65536). DESIGN CHOICE (log 20): nothing else is asked. 20_memory.md R55 and D49 want an added maintenance key of c7
or c8 write-only with an `Ignore` sink and do not list these keys, so no key is singled out (log 19); a second entry of
`IC_MAP` for one address and direction (log 14) and an `ATAG_BASE` that is no multiple of 4 (log 18) are accepted. -/
def Config.wf (c : Config) : Bool :=
  c.regions.all Region.wf && regionsDisjoint c.regions
    && (c.sctlrFixedBit.val != 0 && c.sctlrFixedBit.val != 1 && c.sctlrFixedBit.val != 13 && c.sctlrFixedBit.val != 24)
    && extraKeysFresh c.extraSlots
    && (decide (1 ≤ c.irqCount) && decide (c.irqCount ≤ 65536))

/-- DESIGN CHOICE (log 2; unsafe): the configuration of `State.reset`, the test configuration of 95_test_vectors.md
("one chosen instance of the parameters, not a source value"). That table gives no `IC_MAP`, `ATAG_BASE`,
`BATCH_BUDGET` or `ENTRY_PC`: the map is empty, the base is the one of its Program 4, the entry is the address its
vector B11 fetches from, the budget is 1000. -/
def Config.default : Config where
  regions := [⟨0x00000000, 0x100000, .ram⟩, ⟨0x40000000, 0x100000, .ram⟩, ⟨0x10000000, 0x1000, .periph 1⟩]
  ramFill := 0
  ramImage := []
  sctlrFixedBit := 22
  extraSlots := []
  alignRecords := true
  irqCount := 64
  irqQueueDepth := none
  icMap := []
  atagBase := 0x100
  batchBudget := 1000
  entryPc := 0x8000

end Sys2Proof
end

