-- ==== Sys2Proof/Syntax.lean ====
section
/-! DEFINITION. The commands of the block: one constructor for each row of spec/opcode_table.json. A command is a triple
`(cmd, A, D)` of 32-bit words (30_encoding.md R56), so a constructor carries the fields of its command word and the
operands it uses: `p` is the privilege bit P, `a` the address operand A, `d` or `v` the data operand D (R68). -/

namespace Sys2Proof

/-- The commands (30_encoding.md R58, R72). -/
inductive Instr where
  /-- XLAT.U.R: translate `a` for an unprivileged read (40_translation.md R94). -/
  | xlatUR (a : Word)
  /-- XLAT.U.W: translate `a` for an unprivileged write. -/
  | xlatUW (a : Word)
  /-- XLAT.P.R: translate `a` for a privileged read. -/
  | xlatPR (a : Word)
  /-- XLAT.P.W: translate `a` for a privileged write. -/
  | xlatPW (a : Word)
  /-- LDB, LDH, LDW: load at `a` (43_bus.md R121). -/
  | ldb (p : Bool) (a : Word)
  | ldh (p : Bool) (a : Word)
  | ldw (p : Bool) (a : Word)
  /-- FETCH: read the instruction word at `a` (43_bus.md R123). -/
  | fetch (p : Bool) (a : Word)
  /-- STB, STH, STW: store `d` at `a` (43_bus.md R122). -/
  | stb (p : Bool) (a d : Word)
  | sth (p : Bool) (a d : Word)
  | stw (p : Bool) (a d : Word)
  /-- STOREU: store the word `d` at any address `a` (43_bus.md R124). -/
  | storeu (a d : Word)
  /-- CPR of a named slot: read it (41_cp15.md R98). -/
  | cprSctlr
  | cprTtbr0
  | cprTtbr1
  | cprTtbcr
  | cprDacr
  | cprDfsr
  | cprIfsr
  | cprDfar
  | cprIfar
  | cprContextidr
  /-- CPW of a named slot: write `v` and run its handler (41_cp15.md R99 to R107). -/
  | cpwSctlr (v : Word)
  | cpwTtbr0 (v : Word)
  | cpwTtbr1 (v : Word)
  | cpwTtbcr (v : Word)
  | cpwDacr (v : Word)
  | cpwDfsr (v : Word)
  | cpwIfsr (v : Word)
  | cpwDfar (v : Word)
  | cpwIfar (v : Word)
  | cpwContextidr (v : Word)
  /-- CPR and CPW of a key that no named slot has: an extra slot or no slot (41_cp15.md R95, R108). -/
  | cprOther (key : Key)
  | cpwOther (key : Key) (v : Word)
  /-- IRQRAISE: queue line `irq` as pending (42_interrupt.md R110). -/
  | irqraise (irq : Irq)
  /-- IRQPEND: is an interrupt pending and enabled (R111). -/
  | irqpend
  /-- IRQACCEPT: take the oldest pending interrupt (R112). -/
  | irqaccept
  /-- IRQEOI: complete the oldest accepted interrupt, which must be `irq` (R113). -/
  | irqeoi (irq : Irq)
  /-- IRQENABLE: set the distributor enable to `e` (R114). -/
  | irqenable (e : Bool)
  deriving DecidableEq, Repr

end Sys2Proof
end

