-- ==== Sys2Proof/Decode.lean ====
section
/-! DEFINITION. The command decoder and encoder (30_encoding.md R57 to R74). A decoder reads the `op` field first, which
selects the format (R71); a 1 in a reserved-zero bit makes the word illegal (R57, R70). Decoding is total and rejects by
name. The operands A and D are taken from the command as they are (R68). -/

namespace Sys2Proof

/-- Why a command word is illegal: the cases (a) to (d) of 30_encoding.md R70. (Case (e), an irq that is not below
`IRQ_COUNT`, needs the configuration, so the meanings of IRQRAISE and IRQEOI test it.) -/
inductive Illegal where
  | reservedOp
  | reservedBit
  | reservedSize
  | badFetch
  deriving DecidableEq, Repr

/-- Bits `[lo+len-1:lo]` of a word as a number (00_scope.md R9). -/
def field (w : Word) (lo len : Nat) : Nat := (w.extractLsb' lo len).toNat

/-- Bits [31:28], the operation (R57). -/
def opField (cmd : Word) : Nat := field cmd 28 4

/-- A reserved-zero bit among `mask` is 1. -/
def reservedSet (cmd mask : Word) : Bool := cmd &&& mask != 0

/-- The reserved-zero bits of each format (R59 to R65). -/
def reservedT : Word := 0x0F9FFFFF
def reservedM : Word := 0x0C3FFFFF
def reservedU : Word := 0x0FFFFFFF
def reservedK : Word := 0x0FFFC000
def reservedI : Word := 0x0FFF0000
def reservedE : Word := 0x0FFFFFFE

/-- Bits [13:0], the packed key of format K (R62). -/
def keyField (cmd : Word) : Key := cmd.extractLsb' 0 14

/-- Bits [15:0], the interrupt id of format I (R63). -/
def irqField (cmd : Word) : Irq := cmd.extractLsb' 0 16

/-- The key with components `(major, op1, minor, op2)` (R66). -/
def packKey (major : BitVec 4) (op1 : BitVec 3) (minor : BitVec 4) (op2 : BitVec 3) : Key := major ++ op1 ++ minor ++ op2

/-- The keys of the ten named slots (10_state.md R25). -/
def keySctlr : Key := packKey 1 0 0 0
def keyTtbr0 : Key := packKey 2 0 0 0
def keyTtbr1 : Key := packKey 2 0 0 1
def keyTtbcr : Key := packKey 2 0 0 2
def keyDacr : Key := packKey 3 0 0 0
def keyDfsr : Key := packKey 5 0 0 0
def keyIfsr : Key := packKey 5 0 0 1
def keyDfar : Key := packKey 6 0 0 0
def keyIfar : Key := packKey 6 0 0 2
def keyContextidr : Key := packKey 13 0 0 1

/-- The CPR of a key: a named slot's own command, or the command for any other key (10_state.md R25). -/
def cprOfKey (key : Key) : Instr :=
  if key = keySctlr then .cprSctlr
  else if key = keyTtbr0 then .cprTtbr0
  else if key = keyTtbr1 then .cprTtbr1
  else if key = keyTtbcr then .cprTtbcr
  else if key = keyDacr then .cprDacr
  else if key = keyDfsr then .cprDfsr
  else if key = keyIfsr then .cprIfsr
  else if key = keyDfar then .cprDfar
  else if key = keyIfar then .cprIfar
  else if key = keyContextidr then .cprContextidr
  else .cprOther key

/-- The CPW of a key with value `v`. -/
def cpwOfKey (key : Key) (v : Word) : Instr :=
  if key = keySctlr then .cpwSctlr v
  else if key = keyTtbr0 then .cpwTtbr0 v
  else if key = keyTtbr1 then .cpwTtbr1 v
  else if key = keyTtbcr then .cpwTtbcr v
  else if key = keyDacr then .cpwDacr v
  else if key = keyDfsr then .cpwDfsr v
  else if key = keyIfsr then .cpwIfsr v
  else if key = keyDfar then .cpwDfar v
  else if key = keyIfar then .cpwIfar v
  else if key = keyContextidr then .cpwContextidr v
  else .cpwOther key v

/-- Format T, op 0: P in bit 22, W in bit 21 (R59). -/
def decodeXlat (cmd a : Word) : Except Illegal Instr :=
  if reservedSet cmd reservedT then .error .reservedBit
  else match cmd.getLsbD 22, cmd.getLsbD 21 with
    | false, false => .ok (.xlatUR a)
    | false, true => .ok (.xlatUW a)
    | true, false => .ok (.xlatPR a)
    | true, true => .ok (.xlatPW a)

/-- Format M, op 1: SZ in bits [25:24], F in bit 23, P in bit 22; F needs SZ = 10 (R60, R70). -/
def decodeLoad (cmd a : Word) : Except Illegal Instr :=
  let p := cmd.getLsbD 22
  let f := cmd.getLsbD 23
  if reservedSet cmd reservedM then .error .reservedBit
  else match field cmd 24 2 with
    | 0 => if f then .error .badFetch else .ok (.ldb p a)
    | 1 => if f then .error .badFetch else .ok (.ldh p a)
    | 2 => if f then .ok (.fetch p a) else .ok (.ldw p a)
    | _ => .error .reservedSize

/-- Format M, op 2: F must be 0 (R60, R70). -/
def decodeStore (cmd a d : Word) : Except Illegal Instr :=
  let p := cmd.getLsbD 22
  if reservedSet cmd reservedM then .error .reservedBit
  else if cmd.getLsbD 23 then .error .badFetch
  else match field cmd 24 2 with
    | 0 => .ok (.stb p a d)
    | 1 => .ok (.sth p a d)
    | 2 => .ok (.stw p a d)
    | _ => .error .reservedSize

/-- `i`, unless a reserved-zero bit is 1. -/
def decodeUnless (cmd mask : Word) (i : Instr) : Except Illegal Instr :=
  if reservedSet cmd mask then .error .reservedBit else .ok i

/-- The command that `(cmd, A, D)` stands for, or why the word is illegal (R57, R58, R70). -/
def decode (cmd a d : Word) : Except Illegal Instr :=
  match opField cmd with
  | 0x0 => decodeXlat cmd a
  | 0x1 => decodeLoad cmd a
  | 0x2 => decodeStore cmd a d
  | 0x3 => decodeUnless cmd reservedU (.storeu a d)
  | 0x4 => decodeUnless cmd reservedK (cprOfKey (keyField cmd))
  | 0x5 => decodeUnless cmd reservedK (cpwOfKey (keyField cmd) d)
  | 0x6 => decodeUnless cmd reservedI (.irqraise (irqField cmd))
  | 0x7 => decodeUnless cmd reservedU .irqpend
  | 0x8 => decodeUnless cmd reservedU .irqaccept
  | 0x9 => decodeUnless cmd reservedI (.irqeoi (irqField cmd))
  | 0xA => decodeUnless cmd reservedE (.irqenable (cmd.getLsbD 0))
  | _ => .error .reservedOp

/-- A command's three words on the command port (R56). -/
structure Command where
  cmd : Word
  a : Word
  d : Word
  deriving DecidableEq, Repr

/-- A command word of format T (R59). -/
def wordT (p w : Bool) : Word := bit p <<< 22 ||| bit w <<< 21

/-- A command word of format M (R60). -/
def wordM (op : Word) (sz : Word) (f p : Bool) : Word := op <<< 28 ||| sz <<< 24 ||| bit f <<< 23 ||| bit p <<< 22

/-- A command word of format K (R62). -/
def wordK (op : Word) (key : Key) : Word := op <<< 28 ||| key.setWidth 32

/-- A command word of format I (R63). -/
def wordI (op : Word) (irq : Irq) : Word := op <<< 28 ||| irq.setWidth 32

/-- The command words of a command (R72, R74). An operand the command does not use is 0. -/
def encode : Instr → Command
  | .xlatUR a => ⟨wordT false false, a, 0⟩
  | .xlatUW a => ⟨wordT false true, a, 0⟩
  | .xlatPR a => ⟨wordT true false, a, 0⟩
  | .xlatPW a => ⟨wordT true true, a, 0⟩
  | .ldb p a => ⟨wordM 1 0 false p, a, 0⟩
  | .ldh p a => ⟨wordM 1 1 false p, a, 0⟩
  | .ldw p a => ⟨wordM 1 2 false p, a, 0⟩
  | .fetch p a => ⟨wordM 1 2 true p, a, 0⟩
  | .stb p a d => ⟨wordM 2 0 false p, a, d⟩
  | .sth p a d => ⟨wordM 2 1 false p, a, d⟩
  | .stw p a d => ⟨wordM 2 2 false p, a, d⟩
  | .storeu a d => ⟨0x30000000, a, d⟩
  | .cprSctlr => ⟨wordK 4 keySctlr, 0, 0⟩
  | .cprTtbr0 => ⟨wordK 4 keyTtbr0, 0, 0⟩
  | .cprTtbr1 => ⟨wordK 4 keyTtbr1, 0, 0⟩
  | .cprTtbcr => ⟨wordK 4 keyTtbcr, 0, 0⟩
  | .cprDacr => ⟨wordK 4 keyDacr, 0, 0⟩
  | .cprDfsr => ⟨wordK 4 keyDfsr, 0, 0⟩
  | .cprIfsr => ⟨wordK 4 keyIfsr, 0, 0⟩
  | .cprDfar => ⟨wordK 4 keyDfar, 0, 0⟩
  | .cprIfar => ⟨wordK 4 keyIfar, 0, 0⟩
  | .cprContextidr => ⟨wordK 4 keyContextidr, 0, 0⟩
  | .cpwSctlr v => ⟨wordK 5 keySctlr, 0, v⟩
  | .cpwTtbr0 v => ⟨wordK 5 keyTtbr0, 0, v⟩
  | .cpwTtbr1 v => ⟨wordK 5 keyTtbr1, 0, v⟩
  | .cpwTtbcr v => ⟨wordK 5 keyTtbcr, 0, v⟩
  | .cpwDacr v => ⟨wordK 5 keyDacr, 0, v⟩
  | .cpwDfsr v => ⟨wordK 5 keyDfsr, 0, v⟩
  | .cpwIfsr v => ⟨wordK 5 keyIfsr, 0, v⟩
  | .cpwDfar v => ⟨wordK 5 keyDfar, 0, v⟩
  | .cpwIfar v => ⟨wordK 5 keyIfar, 0, v⟩
  | .cpwContextidr v => ⟨wordK 5 keyContextidr, 0, v⟩
  | .cprOther key => ⟨wordK 4 key, 0, 0⟩
  | .cpwOther key v => ⟨wordK 5 key, 0, v⟩
  | .irqraise irq => ⟨wordI 6 irq, 0, 0⟩
  | .irqpend => ⟨0x70000000, 0, 0⟩
  | .irqaccept => ⟨0x80000000, 0, 0⟩
  | .irqeoi irq => ⟨wordI 9 irq, 0, 0⟩
  | .irqenable e => ⟨0xA0000000 ||| bit e, 0, 0⟩

/-- Decode a command. -/
def decodeCommand (c : Command) : Except Illegal Instr := decode c.cmd c.a c.d

/-- The command whose bits are the low `nbits` bits of `w`: cmd in bits 31..0, A in bits 63..32, D in bits 95..64;
every bit above `nbits` is 0. -/
def commandOfBits (nbits w : Nat) : Command :=
  let v := w % 2 ^ nbits
  ⟨BitVec.ofNat 32 v, BitVec.ofNat 32 (v >>> 32), BitVec.ofNat 32 (v >>> 64)⟩

/-- The instruction the decoder reads from the opcode table's bits. -/
def decodeTableWord (nbits w : Nat) : Option Instr :=
  match decodeCommand (commandOfBits nbits w) with
  | .ok i => some i
  | .error _ => none

end Sys2Proof
end

