-- ==== Sys2Proof/Machine/State.lean ====
section
/-! DEFINITION. Every piece of state the spec gives the block (10_state.md) and its client the Scheduler (60_exceptions.md
R136), the inputs waiting on its ports (30_encoding.md R56), and the state right after reset
(70_reset_and_hazards.md R150). All of it is plain data. -/

namespace Sys2Proof.Machine

/-! ### The four sub-units -/

/-- A domain's right (10_state.md R22). -/
inductive DomainRight where
  | noAccess
  | client
  | reserved
  | manager
  deriving DecidableEq, Repr

/-- The TranslationContext (10_state.md R17 to R24). -/
structure TranslationContext where
  enabled : Bool
  tableBase0 : Word
  tableBase1 : Word
  splitWidth : BitVec 3
  asid : BitVec 8
  domainRights : Vector DomainRight 16
  checkUnaligned : Bool
  vectorHigh : Bool
  deriving DecidableEq, Repr

/-- The raw values of the control-register slots (10_state.md R25, R28). `extra` holds the storage of the extra slots by
key number, strictly rising, no entry 0; an unlisted key holds its reset value 0 (DESIGN CHOICE, log 13). -/
structure ControlRegs where
  sctlr : Word
  ttbr0 : Word
  ttbr1 : Word
  ttbcr : Word
  dacr : Word
  dfsr : Word
  ifsr : Word
  dfar : Word
  ifar : Word
  contextidr : Word
  extra : List (Nat × Word)
  deriving DecidableEq, Repr

/-- The InterruptController (10_state.md R29 to R31); both queues are oldest first. -/
structure InterruptController where
  pending : List Irq
  acknowledged : List Irq
  enabled : Bool
  deriving DecidableEq, Repr

/-- RAM (10_state.md R33): the bytes that differ from `RAM_INIT`, by rising physical address. -/
abbrev Memory := List Host.Cell

/-! ### Outcomes of a command -/

/-- The level of a translation-table fault: first level (section) or second level (page); an alignment fault has none (40_translation.md R90). -/
inductive Level where
  | first
  | second
  deriving DecidableEq, Repr

/-- The guest-recoverable faults (40_translation.md R90, 60_exceptions.md R125). -/
inductive FaultStatus where
  | transSection
  | transPage
  | domainSection
  | domainPage
  | permSection
  | permPage
  | alignment
  deriving DecidableEq, Repr

/-- What an `Abort` outcome carries (00_scope.md R11). -/
structure Abort where
  status : FaultStatus
  isWrite : Bool
  isFetch : Bool
  deriving DecidableEq, Repr

/-- The reasons of a `Fatal` outcome (60_exceptions.md R126). -/
inductive FatalReason where
  | unknownRegister
  | policyViolation
  | unmappedAddress
  | unimplementedSplit
  | tableNotInRam
  | illegalCommand
  | queueOverflow
  | supersection
  | largePage
  | reservedAP
  | vectoredIrq
  | acceptEmpty
  | eoiMismatch
  | halted
  deriving DecidableEq, Repr

/-- What `S.fatal` keeps of the first Fatal (10_state.md R34). -/
structure FatalRecord where
  reason : FatalReason
  info : Word
  deriving DecidableEq, Repr

/-- What the response port shows: one of the three outcomes of 00_scope.md R11. Its 2-bit status and its word R are
`Response.status` and `Response.word` (30_encoding.md R69). -/
inductive Response where
  | ok (v : Word)
  | abort (f : Abort)
  | fatal (r : FatalReason)
  deriving DecidableEq, Repr

/-! ### The Scheduler -/

/-- The Scheduler's stop options and `suppress_interrupts` (60_exceptions.md R136). -/
structure SchedOptions where
  stopAddress : Option Word
  stopInstruction : Option Word
  stopCounter : Option Nat
  stopAtEveryBranch : Bool
  stopAtEveryFunccall : Bool
  suppressInterrupts : Bool
  deriving DecidableEq, Repr

/-- The ExecutionState (60_exceptions.md R136). `remaining = none` is a run with no count to stop at; `started` tells
Idle from Stopped (DESIGN CHOICE, log 7). -/
structure ExecState where
  pc : Word
  icount : Nat
  running : Bool
  halted : Bool
  started : Bool
  remaining : Option Nat
  opts : SchedOptions
  deriving DecidableEq, Repr

/-- Where the Scheduler stands in the step of 60_exceptions.md R138: between batches, at the step's top, about to issue
IRQACCEPT, about to fetch, waiting for the core's decode, executing (the core issues its commands), or executing with an
abort to redirect to the data-abort or the prefetch-abort entry (DESIGN CHOICE, log 6; DEDUCED, log 15). -/
inductive SchedPhase where
  | between
  | top
  | accept
  | fetch
  | decode
  | execute
  | dataAborted
  | prefetchAborted
  deriving DecidableEq, Repr

/-- What the Scheduler reports: a stop with the final pc (R142), a branch event (R147), a fatal error with reason, info
and pc (R143). DESIGN CHOICE (log 10): the state-changed observer of R147 is told of a stop and of nothing else; a start, a
halt, a wake-up and a cancellation are not reported. -/
inductive Notice where
  | stopped (pc : Word)
  | branch (target : Word)
  | fatal (reason : FatalReason) (info pc : Word)
  deriving DecidableEq, Repr

/-- What the core makes of the fetched word (R138 steps 6 and 7). -/
inductive CoreDecode where
  | undefined (entry : Word)
  | conditionFails
  | executes
  deriving DecidableEq, Repr

/-- How the core's execution of an instruction ends (R138 steps 7 and 8): complete, with the branch target if one was
set, whether a call was made, whether it was the WFI equivalent (R140); a supervisor call; the entry of an abort. -/
inductive CoreResult where
  | completed (target : Option Word) (call wfi : Bool)
  | supervisorCall (entry : Word)
  | dataAbort (entry : Word)
  | prefetchAbort (entry : Word)
  deriving DecidableEq, Repr

/-- A move of the Scheduler, with what the core answers to it (R137, R138; log 6). -/
inductive SchedMove where
  | start
  | cancel
  | configure (remaining : Option Nat) (opts : SchedOptions)
  | beginBatch
  | poll (irqMask : Bool)
  | accept (entry : Word)
  | fetch (priv : Bool) (abortEntry : Word)
  | decoded (d : CoreDecode)
  | finish (r : CoreResult)
  deriving DecidableEq, Repr

/-! ### The ports -/

/-- A snapshot (70_reset_and_hazards.md R154): the whole block state, the Scheduler's state and the memory image. DESIGN
CHOICE (log 11): the ExecutionState is held whole; `ram` lists, as `State.ram` does, the bytes that differ from `RAM_INIT`,
and is read against the `RAM_INIT` of the machine that restores it. -/
structure Snapshot where
  tc : TranslationContext
  cp : ControlRegs
  ic : InterruptController
  ram : Memory
  fatal : Option FatalRecord
  sched : ExecState
  deriving DecidableEq, Repr

/-- What the host may do to a running block beside raising (R156): take a snapshot, restore the one it took or one it
brings, write RAM before the first fetch. -/
inductive HostMove where
  | takeSnapshot
  | restoreSaved
  | restore (snap : Snapshot)
  | writeRam (addr : Word) (bytes : List Byte)
  deriving DecidableEq, Repr

/-- One thing on the block's inputs (30_encoding.md R56): a command on the command port; a line on the raise input
(42_interrupt.md R110); a guest MMIO access that `IC_MAP` turns into a command (60_exceptions.md R145); a move of the
Scheduler; a move of the host. -/
inductive PortEvent where
  | command (c : Command)
  | raise (irq : Irq)
  | mmio (isWrite : Bool) (addr d : Word)
  | sched (m : SchedMove)
  | host (m : HostMove)
  deriving DecidableEq, Repr

/-! ### The state -/

/-- The machine. `inbox` is what waits on its inputs, in the order it takes effect; `draws` numbers the peripheral reads
(the index of the free value `Config.periphDraw`, log 4); `saved` is the host's last snapshot; `fetched` says that a
FETCH has been performed (R156, log 12). -/
structure State where
  cfg : Config
  tc : TranslationContext
  cp : ControlRegs
  ic : InterruptController
  ram : Memory
  fatal : Option FatalRecord
  response : Option Response
  periphLog : List PeriphEvent
  draws : Nat
  inbox : List PortEvent
  sched : ExecState
  phase : SchedPhase
  batchLeft : Nat
  notices : List Notice
  saved : Option Snapshot
  fetched : Bool
  deriving DecidableEq, Repr

/-- Why the machine stops. No command of the block stops it: aborts and fatal errors are next states (log 3). Both
reasons are safe: they stop the model where its environment does what the spec gives it no move for. -/
inductive Fault where
  /-- Raised by the Scheduler's moves: a move or a core answer that 60_exceptions.md R138 does not take at this point of
  its step (log 8). Safe. -/
  | schedulerOutOfOrder
  /-- Raised by the host's moves: a snapshot or a restore inside a batch, a restore with nothing saved, a RAM write after
  the first fetch or outside RAM (70_reset_and_hazards.md R154 to R156; log 12). Safe. -/
  | hostMoveNotAllowed
  /-- Raised by an MMIO event at an address `IC_MAP` does not hold (60_exceptions.md R145; log 14). Safe. -/
  | notInIcMap
  deriving DecidableEq, Repr

/-- Why an instruction or a machine is refused. -/
inductive Refusal where
  /-- Raised by an arm of `exec` for an instruction without a meaning. No arm raises it now. Safe. -/
  | notModelled (mnemonic : String)
  /-- Raised by `assemble`: a machine cannot be built from an ill-formed configuration (20_memory.md R48, D47).
  Safe. -/
  | illFormedConfig
  deriving DecidableEq, Repr

/-! ### Reset -/

/-- The TranslationContext at reset (70_reset_and_hazards.md R150). -/
def TranslationContext.reset : TranslationContext where
  enabled := false
  tableBase0 := 0
  tableBase1 := 0
  splitWidth := 0
  asid := 0
  domainRights := Vector.replicate 16 .noAccess
  checkUnaligned := false
  vectorHigh := false

/-- The slots at reset (R150): SCTLR has its fixed bit, everything else is 0. -/
def ControlRegs.reset (c : Config) : ControlRegs where
  sctlr := 1#32 <<< c.sctlrFixedBit.val
  ttbr0 := 0
  ttbr1 := 0
  ttbcr := 0
  dacr := 0
  dfsr := 0
  ifsr := 0
  dfar := 0
  ifar := 0
  contextidr := 0
  extra := []

/-- The InterruptController at reset (R150). -/
def InterruptController.reset : InterruptController where
  pending := []
  acknowledged := []
  enabled := false

/-- No stop option set (DESIGN CHOICE, log 7). -/
def SchedOptions.none : SchedOptions where
  stopAddress := Option.none
  stopInstruction := Option.none
  stopCounter := Option.none
  stopAtEveryBranch := false
  stopAtEveryFunccall := false
  suppressInterrupts := false

/-- The ExecutionState at machine construction: pc is `ENTRY_PC` (70_reset_and_hazards.md R151), the rest is a DESIGN
CHOICE (log 7). -/
def ExecState.reset (c : Config) : ExecState where
  pc := c.entryPc
  icount := 0
  running := false
  halted := false
  started := false
  remaining := none
  opts := .none

/-- The state right after reset of the machine with configuration `c` (R150). -/
def State.resetWith (c : Config) : State where
  cfg := c
  tc := .reset
  cp := .reset c
  ic := .reset
  ram := []
  fatal := none
  response := none
  periphLog := []
  draws := 0
  inbox := []
  sched := .reset c
  phase := .between
  batchLeft := 0
  notices := []
  saved := none
  fetched := false

/-- The machine right after reset, with the configuration `Config.default` (DESIGN CHOICE, log 2). -/
def State.reset : State := .resetWith .default

end Sys2Proof.Machine
end

