-- ==== Sys2Proof/Machine/Operands.lean ====
section
/-! DEFINITION. Operand forms: access widths and the bytes of a value (20_memory.md R38, R45), fields of addresses and
descriptors (40_translation.md R78 to R85), the command an `IC_MAP` entry stands for (60_exceptions.md R145). -/

namespace Sys2Proof.Machine

/-- The number of bytes of an access (20_memory.md R45). -/
def widthBytes : Width → Nat
  | .byte => 1
  | .half => 2
  | .word => 4

/-- `v[8n-1:0]`, zero-extended: the part of a value an access of width `w` moves (30_encoding.md R68). -/
def truncate (w : Width) (v : Word) : Word :=
  match w with
  | .byte => (v.extractLsb' 0 8).setWidth 32
  | .half => (v.extractLsb' 0 16).setWidth 32
  | .word => v

/-- `v[8i+7:8i]` (20_memory.md R38). -/
def byteOf (v : Word) (i : Nat) : Byte := v.extractLsb' (8 * i) 8

/-- The value of bytes at rising addresses, little-endian, zero-extended (20_memory.md R38). -/
def ofBytes2 (b0 b1 : Byte) : Word := (b1 ++ b0).setWidth 32
def ofBytes4 (b0 b1 b2 b3 : Byte) : Word := b3 ++ b2 ++ b1 ++ b0

/-- The address is aligned for the width (20_memory.md R41). -/
def alignedFor (w : Width) (pa : Word) : Bool := pa.toNat % widthBytes w == 0

/-! ### Translation -/

/-- The first-level descriptor's address, `base | va[31:20] << 2` (40_translation.md R78). -/
def l1Addr (base va : Word) : Word := base ||| ((va.extractLsb' 20 12).setWidth 32 <<< 2)

/-- The second-level descriptor's address, `(d1 & 0xFFFFFC00) | va[19:12] << 2` (R82). -/
def l2Addr (d1 va : Word) : Word := (d1 &&& 0xFFFFFC00) ||| ((va.extractLsb' 12 8).setWidth 32 <<< 2)

/-- The physical address of a section mapping (R81). -/
def sectionPa (d1 va : Word) : Word := (d1 &&& 0xFFF00000) ||| (va &&& 0x000FFFFF)

/-- The physical address of a small-page mapping (R85). -/
def pagePa (d2 va : Word) : Word := (d2 &&& 0xFFFFF000) ||| (va &&& 0x00000FFF)

/-- The format field of a descriptor, bits [1:0] (R79, R83). -/
def descFormat (d : Word) : BitVec 2 := d.extractLsb' 0 2

/-- Bit 18 of a first-level descriptor of format 2: a supersection (R79). -/
def isSupersection (d1 : Word) : Bool := d1.getLsbD 18

/-- The domain field of a first-level descriptor, bits [8:5] (R80, R84). -/
def descDomain (d1 : Word) : BitVec 4 := d1.extractLsb' 5 4

/-- AP[2] and AP[1:0] of a section descriptor: bit 15 and bits [11:10] (R80). -/
def sectionAp2 (d1 : Word) : Bool := d1.getLsbD 15
def sectionAp10 (d1 : Word) : BitVec 2 := d1.extractLsb' 10 2

/-- AP[2] and AP[1:0] of a small-page descriptor: bit 9 and bits [5:4] (R84). -/
def pageAp2 (d2 : Word) : Bool := d2.getLsbD 9
def pageAp10 (d2 : Word) : BitVec 2 := d2.extractLsb' 4 2

/-! ### Control registers -/

/-- The table base of TTBR0 for a split width, `v & (0xFFFFFFFF << (14 - N))` (41_cp15.md R101). -/
def tableBase (splitWidth : BitVec 3) (v : Word) : Word := v &&& (0xFFFFFFFF#32 <<< (14 - splitWidth.toNat))

/-- The table base of TTBR1, and of TTBR0 for N = 0: `v & 0xFFFFC000` (41_cp15.md R102, R103). -/
def tableBase16K (v : Word) : Word := v &&& 0xFFFFC000

/-- TTBCR.N, bits [2:0] (41_cp15.md R103). -/
def splitField (v : Word) : BitVec 3 := v.extractLsb' 0 3

/-- CONTEXTIDR's ASID, bits [7:0] (41_cp15.md R107). -/
def asidField (v : Word) : BitVec 8 := v.extractLsb' 0 8

/-! ### The interrupt controller -/

/-- The command that an `IC_MAP` access with data `d` stands for (D36). The entry says where the id and the enable stand
in the data (42_interrupt.md R114); the data's other bits are ignored (DESIGN CHOICE, log 14). DESIGN CHOICE (log 14): a
read that the map makes an IRQEOI or an IRQENABLE, for which D36 gives no operand since a read carries no written data,
takes it from the data word of its event in the same way. -/
def icCommand (op : IcOp) (d : Word) : Instr :=
  match op with
  | .accept => .irqaccept
  | .eoi lo len => .irqeoi ((d.extractLsb' lo len).setWidth 16)
  | .enable bit => .irqenable (d.getLsbD bit.val)

/-- The `IC_MAP` operation at a physical address, for a read or a write. DESIGN CHOICE (log 14): of two entries for the
same address and direction, which 00_scope.md R8 leaves open, the first in the list holds. -/
def icLookup (c : Config) (isWrite : Bool) (addr : Word) : Option IcOp :=
  (c.icMap.find? fun e => e.addr == addr && e.isWrite == isWrite).map (·.op)

end Sys2Proof.Machine
end

