-- ==== Sys2Proof/Machine/Flags.lean ====
section
/-! DEFINITION. Flag and status computations: fault status codes and the FSR value (40_translation.md R90, 41_cp15.md
R109), the domain and permission checks (40_translation.md R86, R87), the fields a control-register write derives
(41_cp15.md R100 to R107), the response's encoding (30_encoding.md R69) and the level outputs (30_encoding.md R56). -/

namespace Sys2Proof.Machine

/-! ### Fault status -/

/-- The 5-bit fault status code (40_translation.md R90). -/
def faultCode : FaultStatus → BitVec 5
  | .transSection => 0b00101
  | .transPage => 0b00111
  | .domainSection => 0b01001
  | .domainPage => 0b01011
  | .permSection => 0b01101
  | .permPage => 0b01111
  | .alignment => 0b00001

/-- The level of a fault (R90). -/
def faultLevel : FaultStatus → Option Level
  | .transSection | .domainSection | .permSection => some .first
  | .transPage | .domainPage | .permPage => some .second
  | .alignment => none

/-- The DomainFault of a level (R86). -/
def domainFault : Level → FaultStatus
  | .first => .domainSection
  | .second => .domainPage

/-- The PermissionFault of a level (R86). -/
def permFault : Level → FaultStatus
  | .first => .permSection
  | .second => .permPage

/-- `zext_32(code) | (is_write << 11)` (41_cp15.md R109, 10_state.md R26). -/
def fsrValue (code : BitVec 5) (isWrite : Bool) : Word := code.setWidth 32 ||| bit isWrite <<< 11

/-! ### Domains and permissions -/

/-- A domain right from its 2-bit field (10_state.md R22). -/
def decodeDomain (v : BitVec 2) : DomainRight :=
  match v.toNat with
  | 0 => .noAccess
  | 1 => .client
  | 2 => .reserved
  | _ => .manager

/-- All sixteen rights of a DACR value: domain d from bits [2d+1:2d] (41_cp15.md R104). -/
def decodeDacr (v : Word) : Vector DomainRight 16 := Vector.ofFn fun d => decodeDomain (v.extractLsb' (2 * d.val) 2)

/-- The right of a domain. -/
def domainRight (tc : TranslationContext) (dom : BitVec 4) : DomainRight := tc.domainRights.get dom.toFin

/-- `Permitted(ap2, ap10, is_write, priv)`: the permission table (40_translation.md R87). The row AP2 = 1, AP1:0 = 00 is
not in it and `checkAccess` never asks for it (R88). -/
def permitted (ap2 : Bool) (ap10 : BitVec 2) (isWrite priv : Bool) : Bool :=
  match ap2, ap10.toNat, priv, isWrite with
  | false, 0, _, _ => false
  | false, 1, priv, _ => priv
  | false, 2, priv, isWrite => priv || !isWrite
  | false, _, _, _ => true
  | true, 0, _, _ => false
  | true, 1, priv, isWrite => priv && !isWrite
  | true, _, _, isWrite => !isWrite

/-- What the access check finds. -/
inductive Access where
  | granted
  | fault (f : FaultStatus)
  | reservedAP
  deriving DecidableEq, Repr

/-- `Check(dom, ap2, ap10, level)` with the domain's right (40_translation.md R86, R88). -/
def checkAccess (right : DomainRight) (ap2 : Bool) (ap10 : BitVec 2) (level : Level) (isWrite priv : Bool) : Access :=
  match right with
  | .noAccess => .fault (domainFault level)
  | .reserved => .fault (domainFault level)
  | .manager => .granted
  | .client =>
    if ap2 && ap10 == 0 then .reservedAP
    else if permitted ap2 ap10 isWrite priv then .granted
    else .fault (permFault level)

/-! ### Control-register writes -/

/-- The SCTLR value a write stores: `v | (1 << SCTLR_FIXED_BIT)` (41_cp15.md R100). -/
def sctlrStored (c : Config) (v : Word) : Word := v ||| 1#32 <<< c.sctlrFixedBit.val

/-- The fields a write of SCTLR value `v'` derives: bits 0, 1 and 13 (R100). -/
def deriveSctlr (v' : Word) (tc : TranslationContext) : TranslationContext :=
  { tc with enabled := v'.getLsbD 0, checkUnaligned := v'.getLsbD 1, vectorHigh := v'.getLsbD 13 }

/-! ### The response -/

/-- The code of a fatal reason (60_exceptions.md R126). -/
def fatalCode : FatalReason → Word
  | .unknownRegister => 1
  | .policyViolation => 2
  | .unmappedAddress => 3
  | .unimplementedSplit => 4
  | .tableNotInRam => 5
  | .illegalCommand => 6
  | .queueOverflow => 7
  | .supersection => 8
  | .largePage => 9
  | .reservedAP => 10
  | .vectoredIrq => 11
  | .acceptEmpty => 12
  | .eoiMismatch => 13
  | .halted => 14

/-- The R word of an abort: the code in R[4:0], WnR in R[11], is_fetch in R[16] (30_encoding.md R69). -/
def abortWord (f : Abort) : Word := fsrValue (faultCode f.status) f.isWrite ||| bit f.isFetch <<< 16

/-- The 2-bit status of a response (30_encoding.md R69). -/
def responseStatus : Response → BitVec 2
  | .ok _ => 0b00
  | .abort _ => 0b01
  | .fatal _ => 0b10

/-- The word R of a response (30_encoding.md R69). -/
def responseWord : Response → Word
  | .ok v => v
  | .abort f => abortWord f
  | .fatal r => fatalCode r

/-! ### Level outputs -/

/-- The value IRQPEND returns and the level output `irq_pending` shows (42_interrupt.md R111). -/
def irqPending (ic : InterruptController) : Bool := ic.enabled && !ic.pending.isEmpty

/-- The interrupt-vector base output (10_state.md R24). -/
def vectorBase (s : State) : Word := if s.tc.vectorHigh then 0xFFFF0000 else 0

/-- The level outputs to the core: the vector base select, `check_unaligned` and `irq_pending` (30_encoding.md R56). -/
structure LevelOutputs where
  vectorHigh : Bool
  checkUnaligned : Bool
  irqPending : Bool
  deriving DecidableEq, Repr

def levelOutputs (s : State) : LevelOutputs := ⟨s.tc.vectorHigh, s.tc.checkUnaligned, irqPending s.ic⟩

/-- The line state of one id: how often it is pending and how often acknowledged; Idle is (0, 0) (42_interrupt.md R116). -/
def lineState (ic : InterruptController) (irq : Irq) : Nat × Nat := (ic.pending.count irq, ic.acknowledged.count irq)

end Sys2Proof.Machine
end

