-- ==== Sys2Proof/Machine/Ops.lean ====
section
/-! DEFINITION. The shared operations: sparse memory, RAM bytes and words (20_memory.md R38), routing (43_bus.md R117),
the outcomes of a command (00_scope.md R11), the state updates every command uses, abort recording (41_cp15.md R109)
and taking an abort (40_translation.md R91, 60_exceptions.md R132). -/

namespace Sys2Proof.Machine

/-! ### Sparse maps: lists of (key, value) by rising key -/

/-- The value at key `k`; a key that is not listed has the value `d`. -/
def sparseGet {α : Type} (m : List (Nat × α)) (k : Nat) (d : α) : α :=
  match m with
  | [] => d
  | (j, v) :: t => if j = k then v else sparseGet t k d

/-- Set key `k` to `v`, where an unlisted `k` has the value `d`: the entry goes where `v = d`. -/
def sparseSet {α : Type} [DecidableEq α] (m : List (Nat × α)) (k : Nat) (v d : α) : List (Nat × α) :=
  match m with
  | [] => if v = d then [] else [(k, v)]
  | (j, u) :: t =>
    if k < j then (if v = d then (j, u) :: t else (k, v) :: (j, u) :: t)
    else if k = j then (if v = d then t else (k, v) :: t)
    else (j, u) :: sparseSet t k v d

/-- The keys are strictly rising and all above `lo` (when there is a bound), and no entry has the value an unlisted key
reads as. -/
def sparseWf {α : Type} [DecidableEq α] (dflt : Nat → α) (lo : Option Nat) (m : List (Nat × α)) : Bool :=
  match m with
  | [] => true
  | (j, v) :: t => lo.all (· < j) && !decide (v = dflt j) && sparseWf dflt (some j) t

/-! ### RAM -/

/-- What an address no write has changed reads as: `RAM_INIT` (10_state.md R33; log 2). -/
def ramInit (c : Config) (a : Nat) : Byte := sparseGet c.ramImage a c.ramFill

/-- The canonical form of RAM: addresses strictly rising, no entry equal to `RAM_INIT` there. -/
def Memory.wf (c : Config) (m : Memory) : Bool := sparseWf (ramInit c) none m

/-- The RAM byte at physical address `a`. -/
def State.readByte (s : State) (a : Nat) : Byte := sparseGet s.ram a (ramInit s.cfg a)

/-- Store a RAM byte. -/
def State.writeByte (s : State) (a : Nat) (b : Byte) : State := { s with ram := sparseSet s.ram a b (ramInit s.cfg a) }

/-- `MemRead(pa, n)`, zero-extended (20_memory.md R38). -/
def memRead (s : State) (pa : Word) (w : Width) : Word :=
  let a := pa.toNat
  match w with
  | .byte => (s.readByte a).setWidth 32
  | .half => ofBytes2 (s.readByte a) (s.readByte (a + 1))
  | .word => ofBytes4 (s.readByte a) (s.readByte (a + 1)) (s.readByte (a + 2)) (s.readByte (a + 3))

/-- `MemWrite(pa, n, v)` (20_memory.md R38). -/
def memWrite (s : State) (pa : Word) (w : Width) (v : Word) : State :=
  let a := pa.toNat
  match w with
  | .byte => s.writeByte a (byteOf v 0)
  | .half => (s.writeByte a (byteOf v 0)).writeByte (a + 1) (byteOf v 1)
  | .word =>
    (((s.writeByte a (byteOf v 0)).writeByte (a + 1) (byteOf v 1)).writeByte (a + 2) (byteOf v 2)).writeByte (a + 3)
      (byteOf v 3)

/-! ### Routing -/

/-- Where a physical address leads (43_bus.md R117). -/
inductive Route where
  | ram
  | periph (id : Nat) (off : Word)
  | none
  deriving DecidableEq, Repr

/-- `Route(pa)` (43_bus.md R117). -/
def route (c : Config) (pa : Word) : Route :=
  match c.regions.find? (·.covers pa.toNat) with
  | Option.none => .none
  | some r =>
    match r.kind with
    | .ram => .ram
    | .periph id => .periph id (pa - r.base)

/-! ### How a command or a part of it ends -/

/-- The three outcomes of 00_scope.md R11, with the state they leave. -/
inductive Ended (α : Type) where
  | ok (v : α) (s : State)
  | abort (f : Abort) (s : State)
  | fatal (reason : FatalReason) (info : Word) (s : State)

/-- Go on with `k` if the first part is OK; an Abort or a Fatal ends the command. -/
def Ended.andThen {α β : Type} (r : Ended α) (k : α → State → Ended β) : Ended β :=
  match r with
  | .ok v s => k v s
  | .abort f s => .abort f s
  | .fatal reason info s => .fatal reason info s

/-- Put a response on the response port (30_encoding.md R56). -/
def State.respond (s : State) (r : Response) : State := { s with response := some r }

/-- Keep a Fatal in `S.fatal` unless an earlier one is kept (10_state.md R34). -/
def State.setFatal (s : State) (reason : FatalReason) (info : Word) : State :=
  match s.fatal with
  | some _ => s
  | none => { s with fatal := some ⟨reason, info⟩ }

/-- The state and the response a command ends with (60_exceptions.md R126, 30_encoding.md R69). -/
def conclude (r : Ended Word) : State :=
  match r with
  | .ok v s => s.respond (.ok v)
  | .abort f s => s.respond (.abort f)
  | .fatal reason info s => (s.setFatal reason info).respond (.fatal reason)

/-- One command: `Fatal(Halted)` while `S.fatal` is set (10_state.md R34; the info word of Halted, the command word, is
kept nowhere because only the first Fatal is kept), else what `body` does. -/
def command (body : State → Ended Word) (s : State) : Host.Outcome State Fault Refusal :=
  match s.fatal with
  | some _ => .next (s.respond (.fatal .halted))
  | none => .next (conclude (body s))

/-! ### Aborts -/

/-- `SetMemoryAbort(va, code, is_write)` (41_cp15.md R109). -/
def State.setMemoryAbort (s : State) (va : Word) (code : BitVec 5) (isWrite : Bool) : State :=
  { s with cp := { s.cp with dfar := va, ifar := va, dfsr := fsrValue code isWrite, ifsr := fsrValue code isWrite } }

/-- Taking an abort: record it, then end the command with it (40_translation.md R91). The saved registers, the mode and
the handler's address are the core's (60_exceptions.md R132), and the block has no return from an abort (R133). -/
def takeAbort {α : Type} (va : Word) (status : FaultStatus) (isWrite isFetch : Bool) (s : State) : Ended α :=
  .abort ⟨status, isWrite, isFetch⟩ (s.setMemoryAbort va (faultCode status) isWrite)

/-- An alignment abort records only when `ALIGN_RECORDS` is on (43_bus.md R118). -/
def takeAlignment {α : Type} (va : Word) (isWrite isFetch : Bool) (s : State) : Ended α :=
  if s.cfg.alignRecords then takeAbort va .alignment isWrite isFetch s
  else .abort ⟨.alignment, isWrite, isFetch⟩ s

/-! ### Peripherals -/

/-- Deliver an access to its peripheral (43_bus.md R120). -/
def State.logPeriph (s : State) (e : PeriphEvent) : State := { s with periphLog := s.periphLog ++ [e] }

/-- `PeriphRead(id, off, n)`, zero-extended: a draw from the oracle, a FREE VALUE (43_bus.md R120; log 4). -/
def periphRead (id : Nat) (off : Word) (w : Width) (s : State) : Ended Word :=
  .ok (truncate w (Config.periphDraw s.draws s.periphLog id off w))
    { s.logPeriph (.read id off w) with draws := s.draws + 1 }

/-- `PeriphWrite(id, off, n, v)`: an event (43_bus.md R120). -/
def periphWrite (id : Nat) (off : Word) (w : Width) (v : Word) (s : State) : Ended Word :=
  .ok 0 (s.logPeriph (.write id off w (truncate w v)))

/-! ### Sub-unit updates -/

def State.setTc (s : State) (tc : TranslationContext) : State := { s with tc := tc }
def State.setCp (s : State) (cp : ControlRegs) : State := { s with cp := cp }
def State.setIc (s : State) (ic : InterruptController) : State := { s with ic := ic }

/-- `Fatal(IllegalCommand)`; the info word is the command word (30_encoding.md R70, 60_exceptions.md R126). -/
def illegal (cmd : Word) (s : State) : Ended Word := .fatal .illegalCommand cmd s

/-- The command of a word the decoder refuses: `Fatal(IllegalCommand)`, or Halted (30_encoding.md R70). -/
def execIllegal (cmd : Word) (s : State) : Host.Outcome State Fault Refusal := command (illegal cmd) s

/-- Build a machine: an ill-formed configuration is refused (20_memory.md R48, D47). -/
def assemble (c : Config) : Host.Outcome State Fault Refusal :=
  if c.wf then .next (State.resetWith c) else .refused .illFormedConfig

end Sys2Proof.Machine
end

