-- ==== Sys2Proof/Machine/Walk.lean ====
section
/-! DEFINITION. The AddressTranslator's walk (40_translation.md R75 to R93). `walk` changes nothing, so its outcome is a
function of what it reads (R93); `translate` adds the recording of a fault (R91). -/

namespace Sys2Proof.Machine

/-- What a walk finds. -/
inductive Walk where
  | done (pa : Word)
  | fault (f : FaultStatus)
  | fatal (reason : FatalReason) (info : Word)
  deriving DecidableEq, Repr

/-- `DescRead(addr)`: a RAM word, read physically; no fault is recorded for a descriptor elsewhere (20_memory.md R50). -/
def descRead (s : State) (addr : Word) : Except FatalReason Word :=
  match route s.cfg addr with
  | .ram => .ok (memRead s addr .word)
  | .periph _ _ => .error .tableNotInRam
  | .none => .error .unmappedAddress

/-- The end of a walk at a mapping: the check decides, `pa` is the result (R80, R84, R86, R88). -/
def mapped (right : DomainRight) (ap2 : Bool) (ap10 : BitVec 2) (level : Level) (isWrite priv : Bool) (va pa : Word) : Walk :=
  match checkAccess right ap2 ap10 level isWrite priv with
  | .granted => .done pa
  | .fault f => .fault f
  | .reservedAP => .fatal .reservedAP va

/-- The second level (R82 to R85). -/
def walkPage (s : State) (d1 va : Word) (isWrite priv : Bool) : Walk :=
  match descRead s (l2Addr d1 va) with
  | .error r => .fatal r (l2Addr d1 va)
  | .ok d2 =>
    match (descFormat d2).toNat with
    | 0 => .fault .transPage
    | 1 => .fatal .largePage va
    | _ => mapped (domainRight s.tc (descDomain d1)) (pageAp2 d2) (pageAp10 d2) .second isWrite priv va (pagePa d2 va)

/-- The first level (R78 to R81). -/
def walkTable (s : State) (va : Word) (isWrite priv : Bool) : Walk :=
  match descRead s (l1Addr s.tc.tableBase0 va) with
  | .error r => .fatal r (l1Addr s.tc.tableBase0 va)
  | .ok d1 =>
    match (descFormat d1).toNat with
    | 0 => .fault .transSection
    | 1 => walkPage s d1 va isWrite priv
    | 2 =>
      if isSupersection d1 then .fatal .supersection va
      else
        mapped (domainRight s.tc (descDomain d1)) (sectionAp2 d1) (sectionAp10 d1) .first isWrite priv va
          (sectionPa d1 va)
    | _ => .fault .transSection

/-- The walk: the identity while translation is off (R76), else the tables (R77). -/
def walk (s : State) (va : Word) (isWrite priv : Bool) : Walk :=
  if s.tc.enabled then walkTable s va isWrite priv else .done va

/-- `Translate(va, is_write, priv)` (R75), with `is_fetch` for the abort it may raise (R91). -/
def translate (va : Word) (isWrite priv isFetch : Bool) (s : State) : Ended Word :=
  match walk s va isWrite priv with
  | .done pa => .ok pa s
  | .fault f => takeAbort va f isWrite isFetch s
  | .fatal r info => .fatal r info s

end Sys2Proof.Machine
end

