-- ==== Sys2Proof/Machine/Bus.lean ====
section
/-! DEFINITION. The Bus: the common access (43_bus.md R119) and the commands LDB, LDH, LDW, FETCH, STB, STH, STW and STOREU
(R121 to R124). -/

namespace Sys2Proof.Machine

/-- The kind of an access: a load or a fetch, or a store of a value. -/
inductive AccessKind where
  | load
  | fetch
  | store (v : Word)
  deriving DecidableEq, Repr

/-- `is_write` of an access (a fetch is a read, 40_translation.md R75). -/
def AccessKind.isWrite : AccessKind → Bool
  | .store _ => true
  | .load | .fetch => false

/-- `is_fetch` of an access. -/
def AccessKind.isFetch : AccessKind → Bool
  | .fetch => true
  | .load | .store _ => false

/-- The access at its physical address: routing, the RAM alignment check, then the read or write (43_bus.md R118, R119). -/
def accessAt (va : Word) (w : Width) (k : AccessKind) (pa : Word) (s : State) : Ended Word :=
  match route s.cfg pa with
  | .none => .fatal .unmappedAddress pa s
  | .periph id off =>
    match k with
    | .store v => periphWrite id off w v s
    | .load | .fetch => periphRead id off w s
  | .ram =>
    if alignedFor w pa then
      match k with
      | .store v => .ok 0 (memWrite s pa w v)
      | .load | .fetch => .ok (memRead s pa w) s
    else takeAlignment va k.isWrite k.isFetch s

/-- `Access(va, n, is_write, priv, is_fetch, v)` (43_bus.md R119). -/
def access (va : Word) (w : Width) (priv : Bool) (k : AccessKind) (s : State) : Ended Word :=
  (translate va k.isWrite priv k.isFetch s).andThen (accessAt va w k)

/-- Privileged stores of pieces `(offset, value)` of one width, in order; the first that fails ends the command and the
pieces before it stay written (43_bus.md R124). Addresses wrap modulo 2^32 (D30). -/
def storePieces (a : Word) (w : Width) (pieces : List (Word × Word)) (s : State) : Ended Word :=
  match pieces with
  | [] => .ok 0 s
  | (off, v) :: rest => (access (a + off) w true (.store v) s).andThen fun _ s' => storePieces a w rest s'

/-- The two halfwords of a word, low first (43_bus.md R124). -/
def halfPieces (d : Word) : List (Word × Word) :=
  [(0, (d.extractLsb' 0 16).setWidth 32), (2, (d.extractLsb' 16 16).setWidth 32)]

/-- The four bytes of a word at ascending offsets (43_bus.md R124). -/
def bytePieces (d : Word) : List (Word × Word) :=
  [(0, (byteOf d 0).setWidth 32), (1, (byteOf d 1).setWidth 32), (2, (byteOf d 2).setWidth 32), (3, (byteOf d 3).setWidth 32)]

/-- STOREU's body (43_bus.md R124). -/
def storeUnaligned (a d : Word) (s : State) : Ended Word :=
  if a.getLsbD 0 then storePieces a .byte (bytePieces d) s else storePieces a .half (halfPieces d) s

/-- LDB (R121). -/
def execLdb (p : Bool) (a : Word) (s : State) : Host.Outcome State Fault Refusal := command (access a .byte p .load) s

/-- LDH (R121). -/
def execLdh (p : Bool) (a : Word) (s : State) : Host.Outcome State Fault Refusal := command (access a .half p .load) s

/-- LDW (R121). -/
def execLdw (p : Bool) (a : Word) (s : State) : Host.Outcome State Fault Refusal := command (access a .word p .load) s

/-- FETCH (R123). -/
def execFetch (p : Bool) (a : Word) (s : State) : Host.Outcome State Fault Refusal := command (access a .word p .fetch) s

/-- STB (R122). -/
def execStb (p : Bool) (a d : Word) (s : State) : Host.Outcome State Fault Refusal := command (access a .byte p (.store d)) s

/-- STH (R122). -/
def execSth (p : Bool) (a d : Word) (s : State) : Host.Outcome State Fault Refusal := command (access a .half p (.store d)) s

/-- STW (R122). -/
def execStw (p : Bool) (a d : Word) (s : State) : Host.Outcome State Fault Refusal := command (access a .word p (.store d)) s

/-- STOREU (R124). -/
def execStoreu (a d : Word) (s : State) : Host.Outcome State Fault Refusal := command (storeUnaligned a d) s

end Sys2Proof.Machine
end

