-- ==== Sys2Proof/Machine/Cp15.lean ====
section
/-! DEFINITION. The ControlRegisterFile: CPR and CPW of the ten named slots and of every other key (41_cp15.md R95 to
R108). The register file checks no privilege (R97). -/

namespace Sys2Proof.Machine

/-! ### CPR of a named slot: the raw value (R98) -/

/-- CPR SCTLR (R98). -/
def execCprSctlr (s : State) : Host.Outcome State Fault Refusal := command (fun s => .ok s.cp.sctlr s) s

/-- CPR TTBR0 (R98). -/
def execCprTtbr0 (s : State) : Host.Outcome State Fault Refusal := command (fun s => .ok s.cp.ttbr0 s) s

/-- CPR TTBR1 (R98). -/
def execCprTtbr1 (s : State) : Host.Outcome State Fault Refusal := command (fun s => .ok s.cp.ttbr1 s) s

/-- CPR TTBCR (R98). -/
def execCprTtbcr (s : State) : Host.Outcome State Fault Refusal := command (fun s => .ok s.cp.ttbcr s) s

/-- CPR DACR (R98). -/
def execCprDacr (s : State) : Host.Outcome State Fault Refusal := command (fun s => .ok s.cp.dacr s) s

/-- CPR DFSR (R98). -/
def execCprDfsr (s : State) : Host.Outcome State Fault Refusal := command (fun s => .ok s.cp.dfsr s) s

/-- CPR IFSR (R98). -/
def execCprIfsr (s : State) : Host.Outcome State Fault Refusal := command (fun s => .ok s.cp.ifsr s) s

/-- CPR DFAR (R98). -/
def execCprDfar (s : State) : Host.Outcome State Fault Refusal := command (fun s => .ok s.cp.dfar s) s

/-- CPR IFAR (R98). -/
def execCprIfar (s : State) : Host.Outcome State Fault Refusal := command (fun s => .ok s.cp.ifar s) s

/-- CPR CONTEXTIDR (R98). -/
def execCprContextidr (s : State) : Host.Outcome State Fault Refusal := command (fun s => .ok s.cp.contextidr s) s

/-! ### CPW handlers -/

/-- SCTLR: bit 24 is refused; the fixed bit is set; bits 0, 1 and 13 are derived (R100). -/
def writeSctlr (v : Word) (s : State) : Ended Word :=
  if v.getLsbD 24 then .fatal .vectoredIrq v s
  else
    let v' := sctlrStored s.cfg v
    .ok 0 ((s.setCp { s.cp with sctlr := v' }).setTc (deriveSctlr v' s.tc))

/-- TTBR0 (R101). -/
def writeTtbr0 (v : Word) (s : State) : Ended Word :=
  .ok 0 ((s.setCp { s.cp with ttbr0 := v }).setTc { s.tc with tableBase0 := tableBase s.tc.splitWidth v })

/-- TTBR1 (R102). -/
def writeTtbr1 (v : Word) (s : State) : Ended Word :=
  .ok 0 ((s.setCp { s.cp with ttbr1 := v }).setTc { s.tc with tableBase1 := tableBase16K v })

/-- TTBCR: a non-zero N is fatal and changes nothing; else the base is re-derived from the raw TTBR0 (R103). -/
def writeTtbcr (v : Word) (s : State) : Ended Word :=
  if splitField v != 0 then .fatal .unimplementedSplit v s
  else
    .ok 0
      ((s.setCp { s.cp with ttbcr := v }).setTc
        { s.tc with splitWidth := 0, tableBase0 := tableBase16K s.cp.ttbr0 })

/-- DACR: all sixteen rights (R104). -/
def writeDacr (v : Word) (s : State) : Ended Word :=
  .ok 0 ((s.setCp { s.cp with dacr := v }).setTc { s.tc with domainRights := decodeDacr v })

/-- CONTEXTIDR (R107). -/
def writeContextidr (v : Word) (s : State) : Ended Word :=
  .ok 0 ((s.setCp { s.cp with contextidr := v }).setTc { s.tc with asid := asidField v })

/-- CPW SCTLR (R100). -/
def execCpwSctlr (v : Word) (s : State) : Host.Outcome State Fault Refusal :=
  command (writeSctlr v) s

/-- CPW TTBR0 (R101). -/
def execCpwTtbr0 (v : Word) (s : State) : Host.Outcome State Fault Refusal :=
  command (writeTtbr0 v) s

/-- CPW TTBR1 (R102). -/
def execCpwTtbr1 (v : Word) (s : State) : Host.Outcome State Fault Refusal :=
  command (writeTtbr1 v) s

/-- CPW TTBCR (R103). -/
def execCpwTtbcr (v : Word) (s : State) : Host.Outcome State Fault Refusal :=
  command (writeTtbcr v) s

/-- CPW DACR (R104). -/
def execCpwDacr (v : Word) (s : State) : Host.Outcome State Fault Refusal :=
  command (writeDacr v) s

/-- CPW DFSR (R105). -/
def execCpwDfsr (v : Word) (s : State) : Host.Outcome State Fault Refusal :=
  command (fun s => .ok 0 (s.setCp { s.cp with dfsr := v })) s

/-- CPW IFSR (R105). -/
def execCpwIfsr (v : Word) (s : State) : Host.Outcome State Fault Refusal :=
  command (fun s => .ok 0 (s.setCp { s.cp with ifsr := v })) s

/-- CPW DFAR (R106). -/
def execCpwDfar (v : Word) (s : State) : Host.Outcome State Fault Refusal :=
  command (fun s => .ok 0 (s.setCp { s.cp with dfar := v })) s

/-- CPW IFAR (R106). -/
def execCpwIfar (v : Word) (s : State) : Host.Outcome State Fault Refusal :=
  command (fun s => .ok 0 (s.setCp { s.cp with ifar := v })) s

/-- CPW CONTEXTIDR (R107). -/
def execCpwContextidr (v : Word) (s : State) : Host.Outcome State Fault Refusal :=
  command (writeContextidr v) s

/-! ### Any other key -/

/-- The extra slot of a key (R95). -/
def extraSlot (c : Config) (key : Key) : Option ExtraSlot := c.extraSlots.find? fun e => e.key == key

/-- The raw value of an extra slot's storage (10_state.md R28: 0 at reset). -/
def ControlRegs.readExtra (cp : ControlRegs) (key : Key) : Word := sparseGet cp.extra key.toNat 0

/-- Store an extra slot's raw value. -/
def ControlRegs.writeExtra (cp : ControlRegs) (key : Key) (v : Word) : ControlRegs :=
  { cp with extra := sparseSet cp.extra key.toNat v 0 }

/-- A read of an extra slot: its constant or its raw value (R108); no slot is UnknownRegister (R95), a write-only slot is
PolicyViolation (R96). -/
def readOther (key : Key) (s : State) : Ended Word :=
  match extraSlot s.cfg key with
  | none => .fatal .unknownRegister (key.setWidth 32) s
  | some e =>
    match e.policy with
    | .wo => .fatal .policyViolation (key.setWidth 32) s
    | .ro | .rw =>
      match e.read with
      | .constant c => .ok c s
      | .storage => .ok (s.cp.readExtra key) s

/-- A write of an extra slot: stored or ignored (R108); no slot is UnknownRegister (R95), a read-only slot is
PolicyViolation (R96). -/
def writeOther (key : Key) (v : Word) (s : State) : Ended Word :=
  match extraSlot s.cfg key with
  | none => .fatal .unknownRegister (key.setWidth 32) s
  | some e =>
    match e.policy with
    | .ro => .fatal .policyViolation (key.setWidth 32) s
    | .wo | .rw =>
      match e.write with
      | .storage => .ok 0 (s.setCp (s.cp.writeExtra key v))
      | .ignore => .ok 0 s

/-- CPR of any other key (R95, R96, R108). -/
def execCprOther (key : Key) (s : State) : Host.Outcome State Fault Refusal := command (readOther key) s

/-- CPW of any other key (R95, R96, R108). -/
def execCpwOther (key : Key) (v : Word) (s : State) : Host.Outcome State Fault Refusal := command (writeOther key v) s

end Sys2Proof.Machine
end

