-- ==== Sys2Proof/Machine/Interrupt.lean ====
section
/-! DEFINITION. The InterruptController's commands (42_interrupt.md R110 to R114). -/

namespace Sys2Proof.Machine

/-- A queue holds `IRQ_QUEUE_DEPTH` entries (10_state.md R29, R30; D33). -/
def queueFull (c : Config) (q : List Irq) : Bool :=
  match c.irqQueueDepth with
  | none => false
  | some n => q.length == n

/-- The id is not below `IRQ_COUNT` (30_encoding.md R70 (e)). -/
def irqIllegal (c : Config) (irq : Irq) : Bool := c.irqCount ≤ irq.toNat

/-- IRQRAISE's body (R110). -/
def raiseIrq (irq : Irq) (s : State) : Ended Word :=
  if irqIllegal s.cfg irq then illegal (encode (.irqraise irq)).cmd s
  else if s.ic.pending.getLast? = some irq then .ok 0 s
  else if queueFull s.cfg s.ic.pending then .fatal .queueOverflow (irq.setWidth 32) s
  else .ok 0 (s.setIc { s.ic with pending := s.ic.pending ++ [irq] })

/-- IRQACCEPT's body (R112). -/
def acceptIrq (s : State) : Ended Word :=
  match s.ic.pending with
  | [] => .fatal .acceptEmpty 0 s
  | irq :: rest =>
    if queueFull s.cfg s.ic.acknowledged then .fatal .queueOverflow (irq.setWidth 32) s
    else .ok (irq.setWidth 32) (s.setIc { s.ic with pending := rest, acknowledged := s.ic.acknowledged ++ [irq] })

/-- IRQEOI's body (R113). -/
def completeIrq (irq : Irq) (s : State) : Ended Word :=
  if irqIllegal s.cfg irq then illegal (encode (.irqeoi irq)).cmd s
  else
    match s.ic.acknowledged with
    | [] => .fatal .eoiMismatch (irq.setWidth 32) s
    | h :: rest =>
      if h = irq then .ok 0 (s.setIc { s.ic with acknowledged := rest })
      else .fatal .eoiMismatch (irq.setWidth 32) s

/-- IRQRAISE (R110). -/
def execIrqraise (irq : Irq) (s : State) : Host.Outcome State Fault Refusal := command (raiseIrq irq) s

/-- IRQPEND (R111). -/
def execIrqpend (s : State) : Host.Outcome State Fault Refusal := command (fun s => .ok (bit (irqPending s.ic)) s) s

/-- IRQACCEPT (R112). -/
def execIrqaccept (s : State) : Host.Outcome State Fault Refusal := command acceptIrq s

/-- IRQEOI (R113). -/
def execIrqeoi (irq : Irq) (s : State) : Host.Outcome State Fault Refusal := command (completeIrq irq) s

/-- IRQENABLE (R114). -/
def execIrqenable (e : Bool) (s : State) : Host.Outcome State Fault Refusal :=
  command (fun s => .ok 0 (s.setIc { s.ic with enabled := e })) s

end Sys2Proof.Machine
end

