-- ==== Sys2Proof/Machine/Translation.lean ====
section
/-! DEFINITION. The XLAT commands (40_translation.md R94). -/

namespace Sys2Proof.Machine

/-- XLAT.U.R (R94). -/
def execXlatUR (a : Word) (s : State) : Host.Outcome State Fault Refusal := command (translate a false false false) s

/-- XLAT.U.W (R94). -/
def execXlatUW (a : Word) (s : State) : Host.Outcome State Fault Refusal := command (translate a true false false) s

/-- XLAT.P.R (R94). -/
def execXlatPR (a : Word) (s : State) : Host.Outcome State Fault Refusal := command (translate a false true false) s

/-- XLAT.P.W (R94). -/
def execXlatPW (a : Word) (s : State) : Host.Outcome State Fault Refusal := command (translate a true true false) s

end Sys2Proof.Machine
end

