-- ==== Sys2Proof/Machine/Dispatch.lean ====
section
/-! DEFINITION. The meaning of every command, one arm each. -/

namespace Sys2Proof.Machine

/-- The meaning of a command. -/
def exec (i : Instr) (s : State) : Host.Outcome State Fault Refusal :=
  match i with
  | .xlatUR a => Sys2Proof.Machine.execXlatUR a s
  | .xlatUW a => Sys2Proof.Machine.execXlatUW a s
  | .xlatPR a => Sys2Proof.Machine.execXlatPR a s
  | .xlatPW a => Sys2Proof.Machine.execXlatPW a s
  | .ldb p a => Sys2Proof.Machine.execLdb p a s
  | .ldh p a => Sys2Proof.Machine.execLdh p a s
  | .ldw p a => Sys2Proof.Machine.execLdw p a s
  | .fetch p a => Sys2Proof.Machine.execFetch p a s
  | .stb p a d => Sys2Proof.Machine.execStb p a d s
  | .sth p a d => Sys2Proof.Machine.execSth p a d s
  | .stw p a d => Sys2Proof.Machine.execStw p a d s
  | .storeu a d => Sys2Proof.Machine.execStoreu a d s
  | .cprSctlr => Sys2Proof.Machine.execCprSctlr s
  | .cprTtbr0 => Sys2Proof.Machine.execCprTtbr0 s
  | .cprTtbr1 => Sys2Proof.Machine.execCprTtbr1 s
  | .cprTtbcr => Sys2Proof.Machine.execCprTtbcr s
  | .cprDacr => Sys2Proof.Machine.execCprDacr s
  | .cprDfsr => Sys2Proof.Machine.execCprDfsr s
  | .cprIfsr => Sys2Proof.Machine.execCprIfsr s
  | .cprDfar => Sys2Proof.Machine.execCprDfar s
  | .cprIfar => Sys2Proof.Machine.execCprIfar s
  | .cprContextidr => Sys2Proof.Machine.execCprContextidr s
  | .cpwSctlr v => Sys2Proof.Machine.execCpwSctlr v s
  | .cpwTtbr0 v => Sys2Proof.Machine.execCpwTtbr0 v s
  | .cpwTtbr1 v => Sys2Proof.Machine.execCpwTtbr1 v s
  | .cpwTtbcr v => Sys2Proof.Machine.execCpwTtbcr v s
  | .cpwDacr v => Sys2Proof.Machine.execCpwDacr v s
  | .cpwDfsr v => Sys2Proof.Machine.execCpwDfsr v s
  | .cpwIfsr v => Sys2Proof.Machine.execCpwIfsr v s
  | .cpwDfar v => Sys2Proof.Machine.execCpwDfar v s
  | .cpwIfar v => Sys2Proof.Machine.execCpwIfar v s
  | .cpwContextidr v => Sys2Proof.Machine.execCpwContextidr v s
  | .cprOther key => Sys2Proof.Machine.execCprOther key s
  | .cpwOther key v => Sys2Proof.Machine.execCpwOther key v s
  | .irqraise irq => Sys2Proof.Machine.execIrqraise irq s
  | .irqpend => Sys2Proof.Machine.execIrqpend s
  | .irqaccept => Sys2Proof.Machine.execIrqaccept s
  | .irqeoi irq => Sys2Proof.Machine.execIrqeoi irq s
  | .irqenable e => Sys2Proof.Machine.execIrqenable e s

end Sys2Proof.Machine
end

