-- ==== Sys2Proof/Machine/Scheduler.lean ====
section
/-! DEFINITION. The Scheduler, the block's client (60_exceptions.md R136 to R143), one command a move so that a raise may
fall between any two of its commands (42_interrupt.md R110). What the core answers stands in the move (log 6). -/

namespace Sys2Proof.Machine

/-- Go on with the next state; a fault or a refusal ends the step. -/
def andNext (r : Host.Outcome State Fault Refusal) (k : State → Host.Outcome State Fault Refusal) :
    Host.Outcome State Fault Refusal :=
  match r with
  | .next s => k s
  | .fault f => .fault f
  | .refused f => .refused f

/-! ### Updates -/

def State.setPc (s : State) (pc : Word) : State := { s with sched := { s.sched with pc := pc } }
def State.setRunning (s : State) (b : Bool) : State := { s with sched := { s.sched with running := b } }
def State.setHalted (s : State) (b : Bool) : State := { s with sched := { s.sched with halted := b } }
def State.setPhase (s : State) (p : SchedPhase) : State := { s with phase := p }
def State.notify (s : State) (n : Notice) : State := { s with notices := s.notices ++ [n] }
def State.markFetched (s : State) (b : Bool) : State := { s with fetched := s.fetched || b }

/-- The batch ends. -/
def endBatch (s : State) : State := { s with phase := .between, batchLeft := 0 }

/-- The step ends: the next step of the batch, or the end of the batch (R137). -/
def endStep (s : State) : State :=
  { s with
    batchLeft := s.batchLeft - 1
    phase := if s.batchLeft - 1 = 0 then .between else .top }

/-- The run stops: `running` is cleared and the observer is told the final pc (R142). -/
def stopRun (s : State) : State := endBatch ((s.setRunning false).notify (.stopped s.sched.pc))

/-- A FATAL response stops the run for good; the operator is shown the reason, the info word and the pc of the Fatal that
`S.fatal` keeps (R143). `before` is the state the command started from. -/
def observeFatal (before s : State) : State :=
  match s.response with
  | some (.fatal _) =>
    let s' := endBatch (s.setRunning false)
    match before.fatal, s.fatal with
    | none, some r => s'.notify (.fatal r.reason r.info s.sched.pc)
    | _, _ => s'
  | _ => s

/-! ### The states of R136 -/

/-- The Scheduler's states: Idle, Running, Halted, Stopped (R136). -/
inductive SchedStatus where
  | idle
  | running
  | halted
  | stopped
  deriving DecidableEq, Repr

def schedStatus (e : ExecState) : SchedStatus :=
  if e.running then (if e.halted then .halted else .running) else if e.started then .stopped else .idle

/-! ### Between batches -/

/-- The number of steps of a batch: `min(BATCH_BUDGET, remaining)` (R137). -/
def batchSize (s : State) : Nat :=
  match s.sched.remaining with
  | none => s.cfg.batchBudget
  | some n => min s.cfg.batchBudget n

/-- The host starts the run (Idle to Running, R136). After a Fatal it does not start again (R143). DESIGN CHOICE (log 7):
a Stopped run with no Fatal kept may be started again, and goes on from its pc; R136's chain of states ends in Stopped and
says nothing of leaving it. A start is not reported (DESIGN CHOICE, log 10). -/
def schedStart (s : State) : Host.Outcome State Fault Refusal :=
  if s.phase = .between then
    if s.fatal.isSome then .next s
    else .next { s with sched := { s.sched with running := true, started := true } }
  else .fault .schedulerOutOfOrder

/-- Cancellation clears `running`; it is seen at the top of the next batch and pre-empts nothing (R137). DESIGN CHOICE
(log 10): it is no stop of R142 and is reported to no observer, neither here nor at the next batch's top. -/
def schedCancel (s : State) : Host.Outcome State Fault Refusal := .next (s.setRunning false)

/-- The host sets the stop options between batches (R136; log 7). -/
def schedConfigure (remaining : Option Nat) (opts : SchedOptions) (s : State) : Host.Outcome State Fault Refusal :=
  if s.phase = .between then .next { s with sched := { s.sched with remaining := remaining, opts := opts } }
  else .fault .schedulerOutOfOrder

/-- The Scheduler is invoked: a batch begins unless `running` is clear (R137). DESIGN CHOICE (log 10): where it is clear
nothing is reported. -/
def schedBeginBatch (s : State) : Host.Outcome State Fault Refusal :=
  if s.phase = .between then
    if s.sched.running then
      .next { s with batchLeft := batchSize s, phase := if batchSize s = 0 then .between else .top }
    else .next s
  else .fault .schedulerOutOfOrder

/-! ### The step of R138 -/

/-- Steps 2 and 3: a halted core ends the step and the batch (R140); the breakpoint address stops the run. -/
def beforeFetch (s : State) : State :=
  if s.sched.halted then endBatch s
  else if s.sched.opts.stopAddress = some s.sched.pc then stopRun s
  else s.setPhase .fetch

/-- Step 1: IRQPEND is asked only if interrupts are not suppressed and the core's mask is clear (R138, R139). -/
def schedPoll (irqMask : Bool) (s : State) : Host.Outcome State Fault Refusal :=
  if s.phase = .top then
    if s.sched.opts.suppressInterrupts || irqMask then .next (beforeFetch s)
    else
      andNext (execIrqpend s) fun s' =>
        match s'.response with
        | some (.ok v) => if v = 1 then .next (s'.setPhase .accept) else .next (beforeFetch s')
        | _ => .next (observeFatal s s')
  else .fault .schedulerOutOfOrder

/-- Step 1, the interrupt is taken: IRQACCEPT, `halted` is cleared, the core's interrupt entry sets the pc (R138, R139).
That it wakes a halted core is not reported (DESIGN CHOICE, log 10). -/
def schedAccept (entry : Word) (s : State) : Host.Outcome State Fault Refusal :=
  if s.phase = .accept then
    andNext (execIrqaccept s) fun s' =>
      match s'.response with
      | some (.ok _) => .next (beforeFetch ((s'.setHalted false).setPc entry))
      | _ => .next (observeFatal s s')
  else .fault .schedulerOutOfOrder

/-- Steps 4 and 5: the fetch; an Abort goes to the core's prefetch-abort entry (R141); the breakpoint instruction stops
the run. -/
def schedFetch (priv : Bool) (abortEntry : Word) (s : State) : Host.Outcome State Fault Refusal :=
  if s.phase = .fetch then
    andNext (execFetch priv s.sched.pc s) fun s' =>
      let s' := s'.markFetched true
      match s'.response with
      | some (.ok v) => if s'.sched.opts.stopInstruction = some v then .next (stopRun s') else .next (s'.setPhase .decode)
      | some (.abort _) => .next (endStep (s'.setPc abortEntry))
      | _ => .next (observeFatal s s')
  else .fault .schedulerOutOfOrder

/-- A redirection to an entry point ends the step without step 8 (R138; D51). -/
def redirect (entry : Word) (s : State) : State := endStep (s.setPc entry)

/-- Some stop condition of step 8 holds (R142). -/
def stopDue (e : ExecState) (branched call : Bool) : Bool :=
  e.opts.stopCounter == some e.icount || (e.opts.stopAtEveryBranch && branched)
    || (e.opts.stopAtEveryFunccall && call) || e.remaining == some 0

/-- The ExecutionState after step 8: the pc, `icount` and the countdown (R138, R142; log 9). -/
def retired (e : ExecState) (target : Option Word) : ExecState :=
  { e with
    pc := target.getD (e.pc + 4)
    icount := e.icount + 1
    remaining := e.remaining.map (· - 1) }

/-- The branch event of step 8 (R147). -/
def notifyBranch (target : Option Word) (s : State) : State :=
  match target with
  | none => s
  | some t => s.notify (.branch t)

/-- Step 8 (R138, R142). -/
def retire (target : Option Word) (call : Bool) (s : State) : State :=
  let s' := notifyBranch target { s with sched := retired s.sched target }
  if stopDue s'.sched target.isSome call then stopRun s' else endStep s'

/-- Steps 6 and 7, the core's decode (R138). -/
def schedDecoded (d : CoreDecode) (s : State) : Host.Outcome State Fault Refusal :=
  if s.phase = .decode then
    match d with
    | .undefined entry => .next (redirect entry s)
    | .conditionFails => .next (retire none false s)
    | .executes => .next (s.setPhase .execute)
  else .fault .schedulerOutOfOrder

/-- Step 7's end (R138, R140, R141): a complete instruction goes to step 8; a supervisor call or an abort to its entry.
An abort's entry ends only an instruction that had that abort, and that instruction ends in no other way (R134; log 15).
That the core halts is not reported (DESIGN CHOICE, log 10). -/
def schedFinish (r : CoreResult) (s : State) : Host.Outcome State Fault Refusal :=
  match s.phase, r with
  | .execute, .completed target call wfi => .next (retire target call (s.setHalted (s.sched.halted || wfi)))
  | .execute, .supervisorCall entry => .next (redirect entry s)
  | .dataAborted, .dataAbort entry => .next (redirect entry s)
  | .prefetchAborted, .prefetchAbort entry => .next (redirect entry s)
  | _, _ => .fault .schedulerOutOfOrder

/-- A move of the Scheduler. -/
def schedMove (m : SchedMove) (s : State) : Host.Outcome State Fault Refusal :=
  match m with
  | .start => schedStart s
  | .cancel => schedCancel s
  | .configure remaining opts => schedConfigure remaining opts s
  | .beginBatch => schedBeginBatch s
  | .poll irqMask => schedPoll irqMask s
  | .accept entry => schedAccept entry s
  | .fetch priv abortEntry => schedFetch priv abortEntry s
  | .decoded d => schedDecoded d s
  | .finish r => schedFinish r s

end Sys2Proof.Machine
end

