-- ==== Sys2Proof/Machine/HostMoves.lean ====
section
/-! DEFINITION. What the host does to a running block beside raising (70_reset_and_hazards.md R154 to R156): snapshots,
restores, RAM writes before the first fetch; and the checks a restored state must pass (10_state.md R29 to R35). -/

namespace Sys2Proof.Machine

/-! ### Checks -/

/-- The derived fields agree with the raw slots (10_state.md R35). -/
def agrees (c : Config) (tc : TranslationContext) (cp : ControlRegs) : Bool :=
  (tc.enabled == cp.sctlr.getLsbD 0 && tc.checkUnaligned == cp.sctlr.getLsbD 1 && tc.vectorHigh == cp.sctlr.getLsbD 13)
    && cp.sctlr.getLsbD c.sctlrFixedBit.val
    && (tc.splitWidth == splitField cp.ttbcr && tc.splitWidth == 0)
    && (tc.tableBase0 == tableBase16K cp.ttbr0 && tc.tableBase1 == tableBase16K cp.ttbr1)
    && tc.domainRights == decodeDacr cp.dacr
    && tc.asid == asidField cp.contextidr

/-- No two adjacent entries are equal (10_state.md R32 (b)). -/
def noAdjacentEqual : List Irq → Bool
  | [] => true
  | [_] => true
  | x :: y :: rest => x != y && noAdjacentEqual (y :: rest)

/-- A queue is not longer than `IRQ_QUEUE_DEPTH` (10_state.md R29, R30). -/
def withinDepth (c : Config) (q : List Irq) : Bool :=
  match c.irqQueueDepth with
  | none => true
  | some n => q.length ≤ n

/-- Every id is below `IRQ_COUNT` (30_encoding.md R63). -/
def idsValid (c : Config) (q : List Irq) : Bool := q.all fun irq => !irqIllegal c irq

/-- The InterruptController's invariants (10_state.md R29, R30, R32). -/
def queuesOk (c : Config) (ic : InterruptController) : Bool :=
  withinDepth c ic.pending && withinDepth c ic.acknowledged && noAdjacentEqual ic.pending && idsValid c ic.pending
    && idsValid c ic.acknowledged

/-- A number is a physical address of RAM. -/
def isRam (c : Config) (a : Nat) : Bool := a < 2 ^ 32 && route c (BitVec.ofNat 32 a) == .ram

/-- RAM is in canonical form and lists only addresses of RAM regions (10_state.md R33). -/
def ramOk (c : Config) (m : Memory) : Bool := Memory.wf c m && m.all fun cell => isRam c cell.1

/-- The extra slots' storage is in canonical form (log 13). -/
def extraOk (cp : ControlRegs) : Bool := sparseWf (fun _ => 0) none cp.extra

/-- The block's state satisfies its invariants. -/
def blockOk (c : Config) (tc : TranslationContext) (cp : ControlRegs) (ic : InterruptController) (ram : Memory) : Bool :=
  agrees c tc cp && queuesOk c ic && ramOk c ram && extraOk cp

/-! ### Snapshots -/

/-- The snapshot of a state (R154). -/
def takeSnapshot (s : State) : Snapshot := ⟨s.tc, s.cp, s.ic, s.ram, s.fatal, s.sched⟩

/-- The snapshot's state satisfies 10_state.md R35, and the other invariants of the block (R155, D44; log 11). -/
def snapshotOk (c : Config) (n : Snapshot) : Bool := blockOk c n.tc n.cp n.ic n.ram

/-- A restore replaces the whole block state, RAM and the Scheduler's state; a snapshot that breaks the invariants is
refused and changes nothing (R155). DESIGN CHOICE (log 12): `fetched` is no part of a snapshot and stays as it is, so the
direct RAM writes of R156 are allowed after a restore exactly if they were before it. -/
def restoreSnapshot (n : Snapshot) (s : State) : State :=
  if snapshotOk s.cfg n then
    { s with tc := n.tc, cp := n.cp, ic := n.ic, ram := n.ram, fatal := n.fatal, sched := n.sched }
  else s

/-- The host takes a snapshot, between commands and between batches (R154). -/
def hostSnapshot (s : State) : Host.Outcome State Fault Refusal :=
  if s.phase = .between then .next { s with saved := some (takeSnapshot s) } else .fault .hostMoveNotAllowed

/-- The host restores a snapshot, between commands and between batches (R155; D44). -/
def hostRestore (n : Snapshot) (s : State) : Host.Outcome State Fault Refusal :=
  if s.phase = .between then .next (restoreSnapshot n s) else .fault .hostMoveNotAllowed

/-- The host restores the snapshot it took last. -/
def hostRestoreSaved (s : State) : Host.Outcome State Fault Refusal :=
  match s.saved with
  | none => .fault .hostMoveNotAllowed
  | some n => hostRestore n s

/-! ### RAM writes before the first fetch -/

/-- Every byte of a write from `addr` on is a byte of RAM. -/
def hostWritable (c : Config) (addr : Word) : List Byte → Bool
  | [] => true
  | _ :: bs => isRam c addr.toNat && hostWritable c (addr + 1) bs

/-- Write bytes at rising physical addresses. -/
def writeBytes (addr : Word) (bytes : List Byte) (s : State) : State :=
  match bytes with
  | [] => s
  | b :: bs => writeBytes (addr + 1) bs (s.writeByte addr.toNat b)

/-- The host writes RAM directly, before the first fetch only (R156; log 12). -/
def hostWriteRam (addr : Word) (bytes : List Byte) (s : State) : Host.Outcome State Fault Refusal :=
  if s.fetched then .fault .hostMoveNotAllowed
  else if hostWritable s.cfg addr bytes then .next (writeBytes addr bytes s)
  else .fault .hostMoveNotAllowed

/-- A move of the host. -/
def hostMove (m : HostMove) (s : State) : Host.Outcome State Fault Refusal :=
  match m with
  | .takeSnapshot => hostSnapshot s
  | .restoreSaved => hostRestoreSaved s
  | .restore n => hostRestore n s
  | .writeRam addr bytes => hostWriteRam addr bytes s

end Sys2Proof.Machine
end

