-- ==== Sys2Proof/Machine/Ports.lean ====
section
/-! DEFINITION. What one thing on the block's inputs does (30_encoding.md R56): a command is decoded and run and the
Scheduler sees its response; a raise is an IRQRAISE command between two commands; an MMIO access becomes the command
`IC_MAP` gives it; the Scheduler and the host make their moves. -/

namespace Sys2Proof.Machine

/-- The command is a FETCH. -/
def isFetchCommand : Instr → Bool
  | .fetch _ _ => true
  | _ => false

/-- Where an abort of the executing core is redirected: a FETCH's to the prefetch-abort entry, every other command's to the
data-abort entry (60_exceptions.md R134, R141; DEDUCED for XLAT and for a FETCH of step 7, log 15). -/
def abortPhase (f : Abort) : SchedPhase := if f.isFetch then .prefetchAborted else .dataAborted

/-- An ABORT response while the core executes: the Scheduler has it to redirect (60_exceptions.md R138 step 7, R134). -/
def observeAbort (s : State) : State :=
  match s.phase, s.response with
  | .execute, some (.abort f) => s.setPhase (abortPhase f)
  | _, _ => s

/-- What the machine makes of a command's response: the first FETCH is noted, a FATAL stops the run, an abort of the
executing core is kept for its redirection. -/
def observe (before : State) (isFetch : Bool) (s : State) : State :=
  observeAbort (observeFatal before (s.markFetched isFetch))

/-- `observe` for a decoded command. -/
def observeInstr (before : State) (i : Instr) (s : State) : State := observe before (isFetchCommand i) s

/-- Perform one command of the command port (30_encoding.md R56, R70). -/
def runCommand (c : Command) (s : State) : Host.Outcome State Fault Refusal :=
  match decodeCommand c with
  | .ok i => andNext (exec i s) fun s' => .next (observeInstr s i s')
  | .error _ => andNext (execIllegal c.cmd s) fun s' => .next (observe s false s')

/-- Perform a guest MMIO access that `IC_MAP` claims: the command it stands for (60_exceptions.md R145). DESIGN CHOICE
(log 14): the access is not walked here and has no privilege, so it cannot abort; its address is physical already. -/
def runMmio (isWrite : Bool) (addr d : Word) (s : State) : Host.Outcome State Fault Refusal :=
  match icLookup s.cfg isWrite addr with
  | some op => runCommand (encode (icCommand op d)) s
  | none => .fault .notInIcMap

/-- Perform one thing on the block's inputs. -/
def perform (e : PortEvent) (s : State) : Host.Outcome State Fault Refusal :=
  match e with
  | .command c => runCommand c s
  | .raise irq => runCommand (encode (.irqraise irq)) s
  | .mmio isWrite addr d => runMmio isWrite addr d s
  | .sched m => schedMove m s
  | .host m => hostMove m s

/-- The next thing on the inputs takes effect; with nothing there the machine waits (log 1). -/
def stepPorts (s : State) : Host.Outcome State Fault Refusal :=
  match s.inbox with
  | [] => .next s
  | e :: rest => perform e { s with inbox := rest }

/-- The command of the table's bits put first on the command port. -/
def placeCommand (s : State) (nbits w : Nat) : State := { s with inbox := .command (commandOfBits nbits w) :: s.inbox }

/-- The host's boot parameter block put on the command port (70_reset_and_hazards.md R152). -/
def placeEvents (es : List PortEvent) (s : State) : State := { s with inbox := es ++ s.inbox }

end Sys2Proof.Machine
end

