-- ==== Sys2Proof/Machine/Step.lean ====
section
/-! DEFINITION. One step of the machine: the next thing on its inputs takes effect. -/

namespace Sys2Proof.Machine

/-- One step (20_memory.md R46, R51: one command at a time, in order, raises in between). -/
def step (s : State) : Host.Outcome State Fault Refusal := stepPorts s

/-- `s` with the command of the opcode table's bits as the very next thing on the command port (log 1). -/
def State.withFetchWord (s : State) (nbits w : Nat) : State := placeCommand s nbits w

end Sys2Proof.Machine
end

