-- ==== Sys2Proof/Safety.lean ====
section
/-! DEFINITION. What counts as a good state and a safe run, in the terms the statements use. -/

namespace Sys2Proof.Machine

/-- The block's invariant: the configuration is one a machine can be assembled from, the derived fields agree with the
raw slots (10_state.md R35), the queues satisfy R29, R30 and R32 (b), RAM and the extra slots' storage are in canonical
form and RAM lists only RAM addresses (R33). -/
def State.Inv (s : State) : Prop :=
  s.cfg.wf = true ∧ agrees s.cfg s.tc s.cp = true ∧ queuesOk s.cfg s.ic = true ∧ ramOk s.cfg s.ram = true
    ∧ extraOk s.cp = true

/-- The block runs: no Fatal is kept (10_state.md R34). -/
def State.live (s : State) : Prop := s.fatal = none

/-- The two states hold the same block state and the same configuration: everything a snapshot holds of the block
(70_reset_and_hazards.md R154), but nothing of the ports and of the Scheduler. -/
def SameBlock (s t : State) : Prop :=
  s.cfg = t.cfg ∧ s.tc = t.tc ∧ s.cp = t.cp ∧ s.ic = t.ic ∧ s.ram = t.ram ∧ s.fatal = t.fatal

/-- The two states hold the same of the Scheduler, of the host's side and of the inputs. -/
def SameClient (s t : State) : Prop :=
  s.inbox = t.inbox ∧ s.sched = t.sched ∧ s.phase = t.phase ∧ s.batchLeft = t.batchLeft ∧ s.notices = t.notices
    ∧ s.saved = t.saved ∧ s.fetched = t.fetched

/-- The peripherals have been given the same accesses and have answered as many reads. -/
def SamePeripherals (s t : State) : Prop := s.periphLog = t.periphLog ∧ s.draws = t.draws

/-- Every byte of memory reads the same. -/
def SameBytes (s t : State) : Prop := ∀ a, s.readByte a = t.readByte a

/-! ### Families of commands -/

/-- The XLAT form with privilege `p` and `is_write` `w` (30_encoding.md R59). -/
def xlatForm (p w : Bool) (a : Word) : Instr :=
  match p, w with
  | false, false => .xlatUR a
  | false, true => .xlatUW a
  | true, false => .xlatPR a
  | true, true => .xlatPW a

/-- LDB, LDH or LDW (43_bus.md R121). -/
def loadForm (w : Width) (p : Bool) (a : Word) : Instr :=
  match w with
  | .byte => .ldb p a
  | .half => .ldh p a
  | .word => .ldw p a

/-- STB, STH or STW (43_bus.md R122). -/
def storeForm (w : Width) (p : Bool) (a d : Word) : Instr :=
  match w with
  | .byte => .stb p a d
  | .half => .sth p a d
  | .word => .stw p a d

/-- The command may write RAM (10_state.md R33: only STORE and STOREU commands do). -/
def isStore : Instr → Bool
  | .stb _ _ _ | .sth _ _ _ | .stw _ _ _ | .storeu _ _ => true
  | _ => false

/-- Commands one after the other, until one does not end in OK 0: what STOREU is said to be (43_bus.md R124). -/
def runUntilFailure : List Instr → State → Host.Outcome State Fault Refusal
  | [], s => .next s
  | i :: rest, s =>
    match exec i s with
    | .next t => if t.response = some (.ok 0) then runUntilFailure rest t else .next t
    | .fault f => .fault f
    | .refused f => .refused f

/-! ### Access rights -/

/-- The domain and the AP bits let the access through (40_translation.md R86 to R88): a Manager, or a Client whose AP
encoding is not the reserved one and permits it. -/
def grants (right : DomainRight) (ap2 : Bool) (ap10 : BitVec 2) (isWrite priv : Bool) : Prop :=
  right = .manager ∨ (right = .client ∧ ¬(ap2 = true ∧ ap10 = 0) ∧ permitted ap2 ap10 isWrite priv = true)

/-- Register file `b` is `a` but for DFSR, IFSR, DFAR and IFAR (41_cp15.md R109). -/
def SameButFaultRegisters (a b : ControlRegs) : Prop :=
  b = { a with dfsr := b.dfsr, ifsr := b.ifsr, dfar := b.dfar, ifar := b.ifar }

/-- The state with an abort recorded for address `va` and a fault status code (41_cp15.md R109). -/
def recorded (s : State) (va : Word) (code : BitVec 5) (isWrite : Bool) : State :=
  { s with
    cp := { s.cp with
      dfar := va
      ifar := va
      dfsr := code.setWidth 32 ||| bit isWrite <<< 11
      ifsr := code.setWidth 32 ||| bit isWrite <<< 11 } }

end Sys2Proof.Machine
end

