-- ==== Sys2Proof/WellFormed.lean ====
section
/-! DEFINITION. Which terms of `Instr` are commands. Every field has exactly the width its encoding gives it, so the only
check is that "any other key" is really another key: the ten named slots have constructors of their own
(spec/opcode_table.json, rows CPR__other_key and CPW__other_key; 10_state.md R25). -/

namespace Sys2Proof

/-- The key belongs to no named slot. -/
def otherKey (key : Key) : Bool := !namedKeys.contains key

/-- A term of `Instr` is a command. -/
def Instr.wf : Instr → Bool
  | .cprOther key => otherKey key
  | .cpwOther key _ => otherKey key
  | .xlatUR _ | .xlatUW _ | .xlatPR _ | .xlatPW _ => true
  | .ldb _ _ | .ldh _ _ | .ldw _ _ | .fetch _ _ => true
  | .stb _ _ _ | .sth _ _ _ | .stw _ _ _ | .storeu _ _ => true
  | .cprSctlr | .cprTtbr0 | .cprTtbr1 | .cprTtbcr | .cprDacr => true
  | .cprDfsr | .cprIfsr | .cprDfar | .cprIfar | .cprContextidr => true
  | .cpwSctlr _ | .cpwTtbr0 _ | .cpwTtbr1 _ | .cpwTtbcr _ | .cpwDacr _ => true
  | .cpwDfsr _ | .cpwIfsr _ | .cpwDfar _ | .cpwIfar _ | .cpwContextidr _ => true
  | .irqraise _ | .irqpend | .irqaccept | .irqeoi _ | .irqenable _ => true

end Sys2Proof
end

