-- ==== Sys2Proof/Certificates/Slice0/Obligations.lean ====
section
/-! DEFINITION. The statements about the block, for the provers. Each docstring names the rule of spec/ it formalises;
statements about every state are about every configuration too, since `State.cfg` holds it (00_scope.md R8). -/

open Sys2Proof Sys2Proof.Machine

/-! ### Reset and the invariant -/

/-- 70_reset_and_hazards.md R150: every piece of block state at reset, for every configuration, and that the values
satisfy 10_state.md R35. -/
def Obligations.ResetLeavesTheListedValues : Prop :=
  ∀ c : Config,
    let s := State.resetWith c
    s.tc.enabled = false ∧ s.tc.tableBase0 = 0 ∧ s.tc.tableBase1 = 0 ∧ s.tc.splitWidth = 0 ∧ s.tc.asid = 0
      ∧ (∀ d : Fin 16, s.tc.domainRights.get d = .noAccess) ∧ s.tc.checkUnaligned = false ∧ s.tc.vectorHigh = false
      ∧ vectorBase s = 0 ∧ s.cp.sctlr = 1#32 <<< c.sctlrFixedBit.val
      ∧ s.cp.ttbr0 = 0 ∧ s.cp.ttbr1 = 0 ∧ s.cp.ttbcr = 0 ∧ s.cp.dacr = 0 ∧ s.cp.contextidr = 0
      ∧ s.cp.dfsr = 0 ∧ s.cp.ifsr = 0 ∧ s.cp.dfar = 0 ∧ s.cp.ifar = 0 ∧ (∀ key, s.cp.readExtra key = 0)
      ∧ s.ic.pending = [] ∧ s.ic.acknowledged = [] ∧ s.ic.enabled = false
      ∧ (∀ a, s.readByte a = ramInit c a) ∧ s.fatal = none
      ∧ (c.wf = true → agrees c s.tc s.cp = true)

/-- The block's invariant holds at reset, for every configuration a machine can be assembled from, and the reset
configuration of the model (log 2, the model's choice) is one. -/
def Obligations.ResetSatisfiesTheInvariant : Prop :=
  (∀ c : Config, c.wf = true → (State.resetWith c).Inv) ∧ Config.default.wf = true ∧ State.reset.Inv

/-- 10_state.md R35, R29, R30, R32 (b): the derived fields agree with the raw slots after every step, the queues keep
their bounds and never hold two equal neighbours, RAM keeps its canonical form. Every step: commands, raises, MMIO
accesses, the Scheduler's and the host's moves. -/
def Obligations.EveryStepKeepsTheInvariant : Prop :=
  ∀ s t : State, s.Inv → step s = .next t → t.Inv

/-! ### Encoding -/

/-- 30_encoding.md R57 to R66: no bit of an encoding is dropped. -/
def Obligations.DecodeOfEncodeIsTheCommand : Prop :=
  ∀ i : Instr, i.wf = true → decodeCommand (encode i) = .ok i

/-- 30_encoding.md R57, R70, R71: a word the decoder accepts is the word of the well-formed command it reads, so every
legal word has one meaning; the operands are the port's A and D or unused. -/
def Obligations.DecodedWordIsTheCommandsWord : Prop :=
  ∀ (c : Command) (i : Instr), decodeCommand c = .ok i →
    i.wf = true ∧ (encode i).cmd = c.cmd ∧ ((encode i).a = c.a ∨ (encode i).a = 0) ∧ ((encode i).d = c.d ∨ (encode i).d = 0)

/-- 30_encoding.md R70 (a) to (d): exactly these words are illegal to the decoder. `cmd[hi:lo]` is written
`cmd.extractLsb' lo (hi - lo + 1)`. -/
def Obligations.DecoderRefusesExactlyTheIllegalWords : Prop :=
  ∀ cmd a d : Word,
    (∃ e, decode cmd a d = .error e) ↔
      let op := (cmd.extractLsb' 28 4).toNat
      let sz := (cmd.extractLsb' 24 2).toNat
      0xB ≤ op
        ∨ (op = 0x0 ∧ ¬(cmd.extractLsb' 23 5 = 0 ∧ cmd.extractLsb' 0 21 = 0))
        ∨ ((op = 0x1 ∨ op = 0x2) ∧ ¬(cmd.extractLsb' 26 2 = 0 ∧ cmd.extractLsb' 0 22 = 0))
        ∨ ((op = 0x3 ∨ op = 0x7 ∨ op = 0x8) ∧ cmd.extractLsb' 0 28 ≠ 0)
        ∨ ((op = 0x4 ∨ op = 0x5) ∧ cmd.extractLsb' 14 14 ≠ 0)
        ∨ ((op = 0x6 ∨ op = 0x9) ∧ cmd.extractLsb' 16 12 ≠ 0)
        ∨ (op = 0xA ∧ cmd.extractLsb' 1 27 ≠ 0)
        ∨ ((op = 0x1 ∨ op = 0x2) ∧ sz = 3)
        ∨ (op = 0x2 ∧ cmd.getLsbD 23 = true)
        ∨ (op = 0x1 ∧ cmd.getLsbD 23 = true ∧ sz ≠ 2)

/-- 30_encoding.md R70: an illegal command, case (e) included, ends in Fatal(IllegalCommand) and changes nothing but
`S.fatal` and the response port. -/
def Obligations.IllegalCommandIsFatalAndChangesNothingElse : Prop :=
  ∀ s : State, s.live →
    (∀ cmd : Word,
      execIllegal cmd s = .next { s with fatal := some ⟨.illegalCommand, cmd⟩, response := some (.fatal .illegalCommand) })
    ∧ (∀ (c : Command) (rest : List PortEvent) (e : Illegal), s.inbox = .command c :: rest → decodeCommand c = .error e →
        ∃ t, step s = .next t ∧ t.fatal = some ⟨.illegalCommand, c.cmd⟩
          ∧ t.response = some (.fatal .illegalCommand) ∧ t.cfg = s.cfg ∧ t.tc = s.tc ∧ t.cp = s.cp ∧ t.ic = s.ic
          ∧ t.ram = s.ram ∧ t.periphLog = s.periphLog ∧ t.draws = s.draws ∧ t.inbox = rest)
    ∧ (∀ irq : Irq, s.cfg.irqCount ≤ irq.toNat →
        exec (.irqraise irq) s = .next { s with
          fatal := some ⟨.illegalCommand, 0x60000000 ||| irq.setWidth 32⟩, response := some (.fatal .illegalCommand) }
        ∧ exec (.irqeoi irq) s = .next { s with
          fatal := some ⟨.illegalCommand, 0x90000000 ||| irq.setWidth 32⟩, response := some (.fatal .illegalCommand) })

/-- 30_encoding.md R72 to R74 and 10_state.md R25: words written out from the spec's encodings, one of every format, decode
to the command they stand for. -/
def Obligations.TabledWordsDecodeToTheirCommands : Prop :=
  ∀ a d : Word,
    decode 0x00000000 a d = .ok (.xlatUR a) ∧ decode 0x00200000 a d = .ok (.xlatUW a)
      ∧ decode 0x00400000 a d = .ok (.xlatPR a) ∧ decode 0x00600000 a d = .ok (.xlatPW a)
      ∧ decode 0x10400000 a d = .ok (.ldb true a) ∧ decode 0x11000000 a d = .ok (.ldh false a)
      ∧ decode 0x12400000 a d = .ok (.ldw true a) ∧ decode 0x12C00000 a d = .ok (.fetch true a)
      ∧ decode 0x12800000 a d = .ok (.fetch false a) ∧ decode 0x20000000 a d = .ok (.stb false a d)
      ∧ decode 0x21400000 a d = .ok (.sth true a d) ∧ decode 0x22400000 a d = .ok (.stw true a d)
      ∧ decode 0x30000000 a d = .ok (.storeu a d) ∧ decode 0x40001400 a d = .ok .cprDfsr
      ∧ decode 0x50000400 a d = .ok (.cpwSctlr d) ∧ decode 0x50003401 a d = .ok (.cpwContextidr d)
      ∧ decode 0x40000000 a d = .ok (.cprOther 0) ∧ decode 0x60000005 a d = .ok (.irqraise 5)
      ∧ decode 0x70000000 a d = .ok .irqpend ∧ decode 0x80000000 a d = .ok .irqaccept
      ∧ decode 0x90000006 a d = .ok (.irqeoi 6) ∧ decode 0xA0000001 a d = .ok (.irqenable true)

/-! ### One step -/

/-- 20_memory.md R46, R51: when the next thing on the inputs is a command that decodes to `i`, the step is `exec` of `i`
at the state without it on the inputs, and then the Scheduler sees the response (`observeInstr`); outside a Scheduler
step, a command that is no FETCH and does not end in FATAL leaves exactly what `exec` leaves. -/
def Obligations.StepRunsTheCommandOnThePort : Prop :=
  ∀ (s : State) (c : Command) (rest : List PortEvent) (i : Instr),
    s.inbox = .command c :: rest → decodeCommand c = .ok i →
    let s' := { s with inbox := rest }
    ∃ t, exec i s' = .next t ∧ step s = .next (observeInstr s' i t)
      ∧ (s.phase = .between → isFetchCommand i = false → (∀ r, t.response ≠ some (.fatal r)) → step s = .next t)

/-- 42_interrupt.md R110, 30_encoding.md R56: the raise input delivers an IRQRAISE command. The model's choice (log 1):
with nothing on the inputs the machine waits. -/
def Obligations.RaiseInputDeliversIrqraiseAndEmptyInputsWait : Prop :=
  (∀ (s : State) (irq : Irq) (rest : List PortEvent), s.inbox = .raise irq :: rest →
    step s = step { s with inbox := .command ⟨0x60000000 ||| irq.setWidth 32, 0, 0⟩ :: rest })
  ∧ ∀ s : State, s.inbox = [] → step s = .next s

/-! ### Translation -/

/-- 40_translation.md R76: translation off is the identity; it cannot fault, for every address and form. -/
def Obligations.TranslationOffIsTheIdentity : Prop :=
  ∀ (s : State) (a : Word) (p w : Bool), s.tc.enabled = false →
    walk s a w p = .done a ∧ (∀ f, translate a w p f s = .ok a s)
      ∧ (s.live → exec (xlatForm p w a) s = .next (s.respond (.ok a)))

/-- 40_translation.md R81 (with R78, R80): XLAT through a section that grants the access completes with
`(d1 & 0xFFF00000) | (va & 0x000FFFFF)` and changes nothing but the response port. -/
def Obligations.XlatThroughASectionCompletes : Prop :=
  ∀ (s : State) (va d1 : Word) (p w : Bool), s.live → s.tc.enabled = true →
    descRead s (s.tc.tableBase0 ||| ((va.extractLsb' 20 12).setWidth 32 <<< 2)) = .ok d1 →
    d1.extractLsb' 0 2 = 2 → d1.getLsbD 18 = false →
    grants (domainRight s.tc (d1.extractLsb' 5 4)) (d1.getLsbD 15) (d1.extractLsb' 10 2) w p →
    exec (xlatForm p w va) s = .next (s.respond (.ok ((d1 &&& 0xFFF00000) ||| (va &&& 0x000FFFFF))))

/-- 40_translation.md R85 (with R82, R84): XLAT through a small page that grants the access completes with
`(d2 & 0xFFFFF000) | (va & 0x00000FFF)` and changes nothing but the response port. -/
def Obligations.XlatThroughASmallPageCompletes : Prop :=
  ∀ (s : State) (va d1 d2 : Word) (p w : Bool), s.live → s.tc.enabled = true →
    descRead s (s.tc.tableBase0 ||| ((va.extractLsb' 20 12).setWidth 32 <<< 2)) = .ok d1 → d1.extractLsb' 0 2 = 1 →
    descRead s ((d1 &&& 0xFFFFFC00) ||| ((va.extractLsb' 12 8).setWidth 32 <<< 2)) = .ok d2 →
    (d2.extractLsb' 0 2 = 2 ∨ d2.extractLsb' 0 2 = 3) →
    grants (domainRight s.tc (d1.extractLsb' 5 4)) (d2.getLsbD 9) (d2.extractLsb' 4 2) w p →
    exec (xlatForm p w va) s = .next (s.respond (.ok ((d2 &&& 0xFFFFF000) ||| (va &&& 0x00000FFF))))

/-- 40_translation.md R86, R88: what the domain and the AP bits decide, at both levels: a NoAccess or Reserved domain
faults, a Manager passes, a Client with the reserved AP encoding is Fatal(ReservedAP) with nothing recorded, a Client that
is not permitted faults, else it passes. -/
def Obligations.DomainIsCheckedBeforePermission : Prop :=
  ∀ (s : State) (va d1 : Word) (w p f : Bool), s.tc.enabled = true → descRead s (l1Addr s.tc.tableBase0 va) = .ok d1 →
    let right := domainRight s.tc (d1.extractLsb' 5 4)
    (d1.extractLsb' 0 2 = 2 → d1.getLsbD 18 = false →
      let ap2 := d1.getLsbD 15
      let ap10 := d1.extractLsb' 10 2
      ((right = .noAccess ∨ right = .reserved) →
        translate va w p f s = .abort ⟨.domainSection, w, f⟩ (recorded s va 0b01001 w))
      ∧ (right = .manager → translate va w p f s = .ok (sectionPa d1 va) s)
      ∧ (right = .client → ap2 = true ∧ ap10 = 0 → translate va w p f s = .fatal .reservedAP va s)
      ∧ (right = .client → ¬(ap2 = true ∧ ap10 = 0) → permitted ap2 ap10 w p = false →
        translate va w p f s = .abort ⟨.permSection, w, f⟩ (recorded s va 0b01101 w))
      ∧ (right = .client → ¬(ap2 = true ∧ ap10 = 0) → permitted ap2 ap10 w p = true →
        translate va w p f s = .ok (sectionPa d1 va) s))
    ∧ (∀ d2, d1.extractLsb' 0 2 = 1 → descRead s (l2Addr d1 va) = .ok d2 →
      (d2.extractLsb' 0 2 = 2 ∨ d2.extractLsb' 0 2 = 3) →
      let ap2 := d2.getLsbD 9
      let ap10 := d2.extractLsb' 4 2
      ((right = .noAccess ∨ right = .reserved) →
        translate va w p f s = .abort ⟨.domainPage, w, f⟩ (recorded s va 0b01011 w))
      ∧ (right = .manager → translate va w p f s = .ok (pagePa d2 va) s)
      ∧ (right = .client → ap2 = true ∧ ap10 = 0 → translate va w p f s = .fatal .reservedAP va s)
      ∧ (right = .client → ¬(ap2 = true ∧ ap10 = 0) → permitted ap2 ap10 w p = false →
        translate va w p f s = .abort ⟨.permPage, w, f⟩ (recorded s va 0b01111 w))
      ∧ (right = .client → ¬(ap2 = true ∧ ap10 = 0) → permitted ap2 ap10 w p = true →
        translate va w p f s = .ok (pagePa d2 va) s))

/-- 40_translation.md R79 and R83: what the format bits of the two descriptors decide. -/
def Obligations.DescriptorFormatsDecideTheWalk : Prop :=
  ∀ (s : State) (va d1 : Word) (w p f : Bool), s.tc.enabled = true → descRead s (l1Addr s.tc.tableBase0 va) = .ok d1 →
    let right := domainRight s.tc (d1.extractLsb' 5 4)
    ((d1.extractLsb' 0 2 = 0 ∨ d1.extractLsb' 0 2 = 3) →
      translate va w p f s = .abort ⟨.transSection, w, f⟩ (recorded s va 0b00101 w))
    ∧ (d1.extractLsb' 0 2 = 2 → d1.getLsbD 18 = true → translate va w p f s = .fatal .supersection va s)
    ∧ (d1.extractLsb' 0 2 = 2 → d1.getLsbD 18 = false →
      walk s va w p = mapped right (d1.getLsbD 15) (d1.extractLsb' 10 2) .first w p va (sectionPa d1 va))
    ∧ (d1.extractLsb' 0 2 = 1 → walk s va w p = walkPage s d1 va w p)
    ∧ (∀ d2, d1.extractLsb' 0 2 = 1 → descRead s (l2Addr d1 va) = .ok d2 →
      (d2.extractLsb' 0 2 = 0 → translate va w p f s = .abort ⟨.transPage, w, f⟩ (recorded s va 0b00111 w))
      ∧ (d2.extractLsb' 0 2 = 1 → translate va w p f s = .fatal .largePage va s)
      ∧ (d2.extractLsb' 0 2 = 2 ∨ d2.extractLsb' 0 2 = 3 →
        walk s va w p = mapped right (d2.getLsbD 9) (d2.extractLsb' 4 2) .second w p va (pagePa d2 va)))

/-- 20_memory.md R50: a descriptor is a little-endian RAM word at a 4-aligned physical address; in a peripheral region it
is Fatal(TableNotInRam), in no region Fatal(UnmappedAddress), with nothing recorded. -/
def Obligations.DescriptorsAreAlignedRamWords : Prop :=
  (∀ (s : State) (va : Word), s.Inv → (l1Addr s.tc.tableBase0 va).toNat % 4 = 0)
  ∧ (∀ d1 va : Word, (l2Addr d1 va).toNat % 4 = 0)
  ∧ (∀ (s : State) (addr : Word), route s.cfg addr = .ram →
      ∃ d, descRead s addr = .ok d
        ∧ d.toNat = ∑ i ∈ Finset.range 4, (s.readByte (addr.toNat + i)).toNat * 256 ^ i)
  ∧ (∀ (s : State) (va : Word) (w p f : Bool), s.tc.enabled = true →
      let l1 := l1Addr s.tc.tableBase0 va
      (∀ id off, route s.cfg l1 = .periph id off → translate va w p f s = .fatal .tableNotInRam l1 s)
      ∧ (route s.cfg l1 = .none → translate va w p f s = .fatal .unmappedAddress l1 s)
      ∧ (∀ d1, descRead s l1 = .ok d1 → d1.extractLsb' 0 2 = 1 →
          let l2 := l2Addr d1 va
          (∀ id off, route s.cfg l2 = .periph id off → translate va w p f s = .fatal .tableNotInRam l2 s)
          ∧ (route s.cfg l2 = .none → translate va w p f s = .fatal .unmappedAddress l2 s)))

/-- 40_translation.md R91, by the end of the walk: a fault records DFSR, IFSR, DFAR and IFAR, with the fault's own code, and
ends in an Abort of that fault with the access's flags; an OK walk gives its physical address and a Fatal walk its reason
and info word, and neither records anything. -/
def Obligations.OnlyAFaultOfTheWalkRecords : Prop :=
  ∀ (s : State) (va : Word) (w p f : Bool),
    (∀ pa, walk s va w p = .done pa → translate va w p f s = .ok pa s)
      ∧ (∀ st, walk s va w p = .fault st →
        translate va w p f s = .abort ⟨st, w, f⟩ (recorded s va (faultCode st) w))
      ∧ ∀ r i, walk s va w p = .fatal r i → translate va w p f s = .fatal r i s

/-- 40_translation.md R90: the fault status codes and their levels. -/
def Obligations.FaultStatusCodes : Prop :=
  (faultCode .transSection = 0b00101 ∧ faultLevel .transSection = some .first)
    ∧ (faultCode .transPage = 0b00111 ∧ faultLevel .transPage = some .second)
    ∧ (faultCode .domainSection = 0b01001 ∧ faultLevel .domainSection = some .first)
    ∧ (faultCode .domainPage = 0b01011 ∧ faultLevel .domainPage = some .second)
    ∧ (faultCode .permSection = 0b01101 ∧ faultLevel .permSection = some .first)
    ∧ (faultCode .permPage = 0b01111 ∧ faultLevel .permPage = some .second)
    ∧ (faultCode .alignment = 0b00001 ∧ faultLevel .alignment = none)

/-- 40_translation.md R87: the permission table, the columns being unprivileged read, unprivileged write, privileged read,
privileged write; an instruction fetch is a read. -/
def Obligations.PermissionTable : Prop :=
  let row := fun ap2 ap10 =>
    (permitted ap2 ap10 false false, permitted ap2 ap10 true false, permitted ap2 ap10 false true, permitted ap2 ap10 true true)
  row false 0 = (false, false, false, false) ∧ row false 1 = (false, false, true, true)
    ∧ row false 2 = (true, false, true, true) ∧ row false 3 = (true, true, true, true)
    ∧ row true 1 = (false, false, true, false) ∧ row true 2 = (true, false, true, false)
    ∧ row true 3 = (true, false, true, false) ∧ AccessKind.fetch.isWrite = false

/-- 40_translation.md R93: the walk is a function of its inputs, the enable, the base, the rights and the two descriptor
words it reads; a repeated XLAT gives the same response and the same state. -/
def Obligations.TranslationIsPure : Prop :=
  (∀ (s t : State) (va : Word) (w p : Bool),
    s.tc.enabled = t.tc.enabled → s.tc.tableBase0 = t.tc.tableBase0 → s.tc.domainRights = t.tc.domainRights →
    descRead s (l1Addr s.tc.tableBase0 va) = descRead t (l1Addr s.tc.tableBase0 va) →
    (∀ d1, descRead s (l1Addr s.tc.tableBase0 va) = .ok d1 → d1.extractLsb' 0 2 = 1 →
      descRead s (l2Addr d1 va) = descRead t (l2Addr d1 va)) →
    walk s va w p = walk t va w p)
  ∧ ∀ (s t : State) (va : Word) (w p : Bool), exec (xlatForm p w va) s = .next t → t.fatal = none →
      exec (xlatForm p w va) t = .next t

/-- 40_translation.md R87, R86: what an unprivileged access may do, a privileged one may do, to the same physical
address. -/
def Obligations.PrivilegeOnlyAddsRights : Prop :=
  ∀ (s : State) (va pa : Word) (w : Bool), walk s va w false = .done pa → walk s va w true = .done pa

/-! ### The Bus -/

/-- 43_bus.md R121, R123, 20_memory.md R38, R45: an aligned load or fetch of RAM completes with the zero-extended
little-endian value and changes nothing but the response port. -/
def Obligations.LoadsAndFetchesOfRamComplete : Prop :=
  ∀ (s : State) (a pa : Word) (p : Bool) (w : Width), s.live → walk s a false p = .done pa → route s.cfg pa = .ram →
    pa.toNat % widthBytes w = 0 →
    ∃ v : Word, v.toNat = ∑ i ∈ Finset.range (widthBytes w), (s.readByte (pa.toNat + i)).toNat * 256 ^ i
      ∧ exec (loadForm w p a) s = .next (s.respond (.ok v))
      ∧ (w = .word → exec (.fetch p a) s = .next (s.respond (.ok v)))

/-- 43_bus.md R122, 20_memory.md R38: an aligned store to RAM completes, puts byte i of D at pa + i, and leaves every
other byte and everything else as it was. The canonical form of RAM is part of the model's invariant. -/
def Obligations.StoresToRamComplete : Prop :=
  ∀ (s : State) (a d pa : Word) (p : Bool) (w : Width), s.live → Memory.wf s.cfg s.ram = true →
    walk s a true p = .done pa → route s.cfg pa = .ram → pa.toNat % widthBytes w = 0 →
    ∃ t, exec (storeForm w p a d) s = .next t ∧ t.response = some (.ok 0)
      ∧ (∀ i, i < widthBytes w → t.readByte (pa.toNat + i) = d.extractLsb' (8 * i) 8)
      ∧ (∀ b, b < pa.toNat ∨ pa.toNat + widthBytes w ≤ b → t.readByte b = s.readByte b)
      ∧ t.cfg = s.cfg ∧ t.tc = s.tc ∧ t.cp = s.cp ∧ t.ic = s.ic ∧ t.fatal = s.fatal ∧ SamePeripherals s t ∧ SameClient s t

/-- 20_memory.md R40, R54: what mixed-width reads see after a word store, for every value; and with translation off a
load or a fetch right after the store sees it, with no maintenance. -/
def Obligations.ReadsSeeTheStoredWord : Prop :=
  (∀ (s : State) (pa v : Word), Memory.wf s.cfg s.ram = true → pa.toNat % 4 = 0 →
    let t := memWrite s pa .word v
    memRead t pa .word = v ∧ memRead t pa .half = v &&& 0xFFFF ∧ memRead t (pa + 2) .half = v >>> 16
      ∧ memRead t (pa + 3) .byte = v >>> 24)
  ∧ ∀ (s : State) (a d : Word) (p q : Bool), s.live → s.tc.enabled = false → Memory.wf s.cfg s.ram = true →
      route s.cfg a = .ram → a.toNat % 4 = 0 →
      ∃ t, exec (.stw p a d) s = .next t ∧ exec (.ldw q a) t = .next (t.respond (.ok d))
        ∧ exec (.fetch q a) t = .next (t.respond (.ok d))

/-- 43_bus.md R120, 20_memory.md R42: an access to a peripheral is not alignment-checked; a read answers what the oracle
draws (a free value, log 4), whatever it is, cut to the width, and is delivered to the peripheral; a write is delivered
with the low bytes of D. Nothing else changes. -/
def Obligations.PeripheralAccessesComplete : Prop :=
  ∀ (s : State) (a d pa off : Word) (p : Bool) (w : Width) (id : Nat), s.live → route s.cfg pa = .periph id off →
    (walk s a false p = .done pa →
      ∃ v, v.toNat < 256 ^ widthBytes w
        ∧ v.toNat = (Config.periphDraw s.draws s.periphLog id off w).toNat % 256 ^ widthBytes w
        ∧ exec (loadForm w p a) s = .next { s with
            periphLog := s.periphLog ++ [.read id off w], draws := s.draws + 1, response := some (.ok v) }
        ∧ (w = .word → exec (.fetch p a) s = exec (.ldw p a) s))
    ∧ (walk s a true p = .done pa →
      ∃ v, v.toNat = d.toNat % 256 ^ widthBytes w
        ∧ exec (storeForm w p a d) s = .next { s with
            periphLog := s.periphLog ++ [.write id off w v], response := some (.ok 0) })

/-- 43_bus.md R118, 20_memory.md R41, R43: a misaligned RAM access reads and writes nothing and ends in the alignment
abort, recorded exactly when ALIGN_RECORDS is on, whatever `check_unaligned` holds. -/
def Obligations.MisalignedRamAccessAborts : Prop :=
  ∀ (s : State) (a d pa : Word) (p : Bool) (w : Width), s.live → route s.cfg pa = .ram → pa.toNat % widthBytes w ≠ 0 →
    let after := fun isWrite => if s.cfg.alignRecords = true then recorded s a 0b00001 isWrite else s
    (walk s a false p = .done pa →
      exec (loadForm w p a) s = .next ((after false).respond (.abort ⟨.alignment, false, false⟩))
      ∧ (w = .word → exec (.fetch p a) s = .next ((after false).respond (.abort ⟨.alignment, false, true⟩))))
    ∧ (walk s a true p = .done pa →
      exec (storeForm w p a d) s = .next ((after true).respond (.abort ⟨.alignment, true, false⟩)))

/-- 43_bus.md R117, 60_exceptions.md R129: an access to an address no region covers is Fatal(UnmappedAddress) with
nothing recorded; an access whose walk faults or is fatal ends as the walk does, before routing and alignment. -/
def Obligations.WalkAndRoutingComeBeforeAlignment : Prop :=
  ∀ (s : State) (a d : Word) (p : Bool) (w : Width), s.live →
    (∀ pa, route s.cfg pa = .none →
      let t := { s with fatal := some ⟨.unmappedAddress, pa⟩, response := some (.fatal .unmappedAddress) }
      (walk s a false p = .done pa → exec (loadForm w p a) s = .next t ∧ exec (.fetch p a) s = .next t)
      ∧ (walk s a true p = .done pa → exec (storeForm w p a d) s = .next t))
    ∧ (∀ st,
      (walk s a false p = .fault st →
        exec (loadForm w p a) s = .next ((recorded s a (faultCode st) false).respond (.abort ⟨st, false, false⟩))
        ∧ exec (.fetch p a) s = .next ((recorded s a (faultCode st) false).respond (.abort ⟨st, false, true⟩)))
      ∧ (walk s a true p = .fault st →
        exec (storeForm w p a d) s = .next ((recorded s a (faultCode st) true).respond (.abort ⟨st, true, false⟩))))
    ∧ (∀ r i,
      let t := { s with fatal := some ⟨r, i⟩, response := some (.fatal r) }
      (walk s a false p = .fatal r i → exec (loadForm w p a) s = .next t ∧ exec (.fetch p a) s = .next t)
      ∧ (walk s a true p = .fatal r i → exec (storeForm w p a d) s = .next t))

/-- 43_bus.md R124: STOREU is two privileged halfword stores, low half first, at an even address, and four privileged byte
stores at ascending addresses at an odd one; the first that fails ends it and the earlier ones stay. Addresses wrap. -/
def Obligations.StoreuIsItsPieces : Prop :=
  ∀ (s : State) (a d : Word),
    (a.getLsbD 0 = false →
      exec (.storeu a d) s = runUntilFailure [.sth true a d, .sth true (a + 2) (d >>> 16)] s)
    ∧ (a.getLsbD 0 = true →
      exec (.storeu a d) s
        = runUntilFailure
          [.stb true a d, .stb true (a + 1) (d >>> 8), .stb true (a + 2) (d >>> 16), .stb true (a + 3) (d >>> 24)] s)

/-- 43_bus.md R124: with translation off and RAM at the four addresses (which wrap modulo 2^32), STOREU completes and puts
byte i of D at A + i, and leaves every other byte and everything else as it was. -/
def Obligations.StoreuToRamCompletes : Prop :=
  ∀ (s : State) (a d : Word), s.live → s.tc.enabled = false → Memory.wf s.cfg s.ram = true →
    (∀ i : Nat, i < 4 → route s.cfg (a + BitVec.ofNat 32 i) = .ram) →
    ∃ t, exec (.storeu a d) s = .next t ∧ t.response = some (.ok 0)
      ∧ (∀ i : Nat, i < 4 → t.readByte (a + BitVec.ofNat 32 i).toNat = d.extractLsb' (8 * i) 8)
      ∧ (∀ b, (∀ i : Nat, i < 4 → b ≠ (a + BitVec.ofNat 32 i).toNat) → t.readByte b = s.readByte b)
      ∧ t.cfg = s.cfg ∧ t.tc = s.tc ∧ t.cp = s.cp ∧ t.ic = s.ic ∧ t.fatal = s.fatal ∧ SamePeripherals s t ∧ SameClient s t

/-! ### Frames -/

/-- 10_state.md R33, 43_bus.md R121 to R123: XLAT, LOAD and FETCH leave everything but the response, the fault registers
(on an abort only), `S.fatal` (on a FATAL response only) and, for a load or fetch of a peripheral only, the peripheral's
record. -/
def Obligations.TranslatingAndLoadingCommandsFrame : Prop :=
  ∀ (s t : State) (i : Instr) (a : Word) (p w : Bool) (wd : Width),
    i = xlatForm p w a ∨ i = loadForm wd p a ∨ i = .fetch p a → exec i s = .next t →
    t.cfg = s.cfg ∧ t.tc = s.tc ∧ t.ic = s.ic ∧ SameClient s t ∧ SameBytes s t ∧ t.ram = s.ram
      ∧ SameButFaultRegisters s.cp t.cp
      ∧ ((∀ f, t.response ≠ some (.abort f)) → t.cp = s.cp)
      ∧ ((∀ r, t.response ≠ some (.fatal r)) → t.fatal = s.fatal)
      ∧ (i = xlatForm p w a → SamePeripherals s t)
      ∧ ((∀ pa id off, walk s a false p = .done pa → route s.cfg pa ≠ .periph id off) → SamePeripherals s t)

/-- 43_bus.md R122, 10_state.md R33: the frame of STB, STH and STW. The bytes stored to are the width's bytes from the
physical address the walk gives; where no RAM byte is stored, every byte reads as before. -/
def Obligations.StoringCommandsFrame : Prop :=
  ∀ (s t : State) (a d : Word) (p : Bool) (w : Width), exec (storeForm w p a d) s = .next t →
    (∀ pa, walk s a true p = .done pa → ∀ b, b < pa.toNat ∨ pa.toNat + widthBytes w ≤ b → t.readByte b = s.readByte b)
    ∧ ((∀ pa, walk s a true p = .done pa → route s.cfg pa = .ram → pa.toNat % widthBytes w ≠ 0) → SameBytes s t)
    ∧ (t.response ≠ some (.ok 0) → SameBytes s t)
    ∧ t.cfg = s.cfg ∧ t.tc = s.tc ∧ t.ic = s.ic ∧ SameClient s t ∧ t.draws = s.draws
    ∧ SameButFaultRegisters s.cp t.cp
    ∧ ((∀ f, t.response ≠ some (.abort f)) → t.cp = s.cp)
    ∧ ((∀ r, t.response ≠ some (.fatal r)) → t.fatal = s.fatal)
    ∧ ((∀ pa id off, walk s a true p = .done pa → route s.cfg pa ≠ .periph id off) → t.periphLog = s.periphLog)

/-- 10_state.md R33, R16 and the model's split of the state: only STORE and STOREU change RAM; no command changes the
configuration, the inputs, the Scheduler or the host's side. -/
def Obligations.OnlyStoresChangeMemory : Prop :=
  ∀ (s t : State) (i : Instr), exec i s = .next t →
    (isStore i = false → t.ram = s.ram ∧ SameBytes s t) ∧ t.cfg = s.cfg ∧ SameClient s t

/-- 10_state.md R17 to R24: each field of the TranslationContext changes only by a CPW of the slots that derive it. -/
def Obligations.OnlyItsWritersChangeTheTranslationContext : Prop :=
  ∀ (s t : State) (i : Instr), exec i s = .next t →
    ((∀ v, i ≠ .cpwSctlr v) →
      t.tc.enabled = s.tc.enabled ∧ t.tc.checkUnaligned = s.tc.checkUnaligned ∧ t.tc.vectorHigh = s.tc.vectorHigh)
    ∧ ((∀ v, i ≠ .cpwTtbr0 v ∧ i ≠ .cpwTtbcr v) → t.tc.tableBase0 = s.tc.tableBase0)
    ∧ ((∀ v, i ≠ .cpwTtbr1 v) → t.tc.tableBase1 = s.tc.tableBase1)
    ∧ ((∀ v, i ≠ .cpwTtbcr v) → t.tc.splitWidth = s.tc.splitWidth)
    ∧ ((∀ v, i ≠ .cpwDacr v) → t.tc.domainRights = s.tc.domainRights)
    ∧ ((∀ v, i ≠ .cpwContextidr v) → t.tc.asid = s.tc.asid)

/-! ### Control registers -/

/-- 41_cp15.md R98: a CPR of each of the ten named slots completes with the slot's raw value, in every mode, and changes
nothing but the response port. -/
def Obligations.CprReturnsTheRawValue : Prop :=
  ∀ s : State, s.live →
    exec .cprSctlr s = .next (s.respond (.ok s.cp.sctlr)) ∧ exec .cprTtbr0 s = .next (s.respond (.ok s.cp.ttbr0))
      ∧ exec .cprTtbr1 s = .next (s.respond (.ok s.cp.ttbr1)) ∧ exec .cprTtbcr s = .next (s.respond (.ok s.cp.ttbcr))
      ∧ exec .cprDacr s = .next (s.respond (.ok s.cp.dacr)) ∧ exec .cprDfsr s = .next (s.respond (.ok s.cp.dfsr))
      ∧ exec .cprIfsr s = .next (s.respond (.ok s.cp.ifsr)) ∧ exec .cprDfar s = .next (s.respond (.ok s.cp.dfar))
      ∧ exec .cprIfar s = .next (s.respond (.ok s.cp.ifar))
      ∧ exec .cprContextidr s = .next (s.respond (.ok s.cp.contextidr))

/-- 41_cp15.md R105, R106: a CPW of DFSR, IFSR, DFAR or IFAR stores all 32 bits and changes nothing else. -/
def Obligations.CpwOfAFaultRegisterStores : Prop :=
  ∀ (s : State) (v : Word), s.live →
    exec (.cpwDfsr v) s = .next { s with cp := { s.cp with dfsr := v }, response := some (.ok 0) }
      ∧ exec (.cpwIfsr v) s = .next { s with cp := { s.cp with ifsr := v }, response := some (.ok 0) }
      ∧ exec (.cpwDfar v) s = .next { s with cp := { s.cp with dfar := v }, response := some (.ok 0) }
      ∧ exec (.cpwIfar v) s = .next { s with cp := { s.cp with ifar := v }, response := some (.ok 0) }

/-- 41_cp15.md R100: bit 24 is refused and changes nothing; else SCTLR gets the value with the fixed bit set, and bits 0, 1
and 13 of it set `enabled`, `check_unaligned` and `vector_high`; nothing else changes. -/
def Obligations.CpwSctlrDerivesTheEnables : Prop :=
  ∀ (s : State) (v : Word), s.live →
    (v.getLsbD 24 = true →
      exec (.cpwSctlr v) s = .next { s with fatal := some ⟨.vectoredIrq, v⟩, response := some (.fatal .vectoredIrq) })
    ∧ (v.getLsbD 24 = false →
      let v' := v ||| (1#32 <<< s.cfg.sctlrFixedBit.val)
      exec (.cpwSctlr v) s = .next { s with
        cp := { s.cp with sctlr := v' }
        tc := { s.tc with
          enabled := v'.getLsbD 0, checkUnaligned := v'.getLsbD 1, vectorHigh := v'.getLsbD 13 }
        response := some (.ok 0) })

/-- 41_cp15.md R101, R102: TTBR0 and TTBR1 keep the raw value; the bases lose the bits the mask clears, which for the split
width 0 of every running block are bits [13:0]; nothing else changes, and no walk reads the second base. -/
def Obligations.CpwTtbrDerivesTheBase : Prop :=
  ∀ (s : State) (v : Word), s.live →
    exec (.cpwTtbr0 v) s = .next { s with
      cp := { s.cp with ttbr0 := v }
      tc := { s.tc with tableBase0 := v &&& (0xFFFFFFFF#32 <<< (14 - s.tc.splitWidth.toNat)) }
      response := some (.ok 0) }
    ∧ (s.Inv → v &&& (0xFFFFFFFF#32 <<< (14 - s.tc.splitWidth.toNat)) = v &&& 0xFFFFC000)
    ∧ exec (.cpwTtbr1 v) s = .next { s with
      cp := { s.cp with ttbr1 := v }
      tc := { s.tc with tableBase1 := v &&& 0xFFFFC000 }
      response := some (.ok 0) }
    ∧ ∀ va w p, walk { s with tc := { s.tc with tableBase1 := v &&& 0xFFFFC000 } } va w p = walk s va w p

/-- 41_cp15.md R103: a non-zero N is Fatal(UnimplementedSplit) and changes nothing; else the raw value is stored, the split
width is 0 and the base is re-derived from the raw TTBR0. -/
def Obligations.CpwTtbcrRederivesTheBase : Prop :=
  ∀ (s : State) (v : Word), s.live →
    (v.extractLsb' 0 3 ≠ 0 →
      exec (.cpwTtbcr v) s
        = .next { s with fatal := some ⟨.unimplementedSplit, v⟩, response := some (.fatal .unimplementedSplit) })
    ∧ (v.extractLsb' 0 3 = 0 →
      exec (.cpwTtbcr v) s = .next { s with
        cp := { s.cp with ttbcr := v }
        tc := { s.tc with splitWidth := 0, tableBase0 := s.cp.ttbr0 &&& 0xFFFFC000 }
        response := some (.ok 0) })

/-- 41_cp15.md R104: a CPW of DACR keeps the raw value and gives domain d the right of bits [2d+1:2d]: 0 NoAccess, 1
Client, 2 Reserved, 3 Manager, for all sixteen; nothing else changes. -/
def Obligations.CpwDacrDerivesAllSixteenRights : Prop :=
  ∀ (s : State) (v : Word), s.live →
    ∃ rights : Vector DomainRight 16,
      exec (.cpwDacr v) s = .next { s with
        cp := { s.cp with dacr := v }, tc := { s.tc with domainRights := rights }, response := some (.ok 0) }
      ∧ ∀ d : Fin 16, rights.get d = match v.toNat / 4 ^ d.val % 4 with
          | 0 => DomainRight.noAccess
          | 1 => DomainRight.client
          | 2 => DomainRight.reserved
          | _ => DomainRight.manager

/-- 41_cp15.md R107: a CPW of CONTEXTIDR keeps the raw value and takes the ASID from bits [7:0]; nothing else changes, and no
translation does. -/
def Obligations.CpwContextidrTakesTheAsid : Prop :=
  ∀ (s : State) (v : Word), s.live →
    exec (.cpwContextidr v) s = .next { s with
      cp := { s.cp with contextidr := v }, tc := { s.tc with asid := v.extractLsb' 0 8 }, response := some (.ok 0) }
    ∧ ∀ va w p, walk { s with tc := { s.tc with asid := v.extractLsb' 0 8 } } va w p = walk s va w p

/-- 41_cp15.md R95: a CPR or CPW of a key no slot has is Fatal(UnknownRegister) and changes nothing but `S.fatal` and the
response port; the word of every other key decodes to that command. -/
def Obligations.UnknownKeyIsFatal : Prop :=
  ∀ (s : State) (key : Key) (v : Word), s.live → otherKey key = true → extraSlot s.cfg key = none →
    let t := { s with fatal := some ⟨.unknownRegister, key.setWidth 32⟩, response := some (.fatal .unknownRegister) }
    decode (0x40000000 ||| key.setWidth 32) 0 v = .ok (.cprOther key)
      ∧ decode (0x50000000 ||| key.setWidth 32) 0 v = .ok (.cpwOther key v)
      ∧ exec (.cprOther key) s = .next t ∧ exec (.cpwOther key v) s = .next t

/-- 41_cp15.md R96: a CPR of a write-only slot and a CPW of a read-only slot are Fatal(PolicyViolation) and change nothing
but `S.fatal` and the response port. -/
def Obligations.PolicyViolationIsFatal : Prop :=
  ∀ (s : State) (key : Key) (v : Word) (e : ExtraSlot), s.live → extraSlot s.cfg key = some e →
    let t := { s with fatal := some ⟨.policyViolation, key.setWidth 32⟩, response := some (.fatal .policyViolation) }
    (e.policy = .wo → exec (.cprOther key) s = .next t) ∧ (e.policy = .ro → exec (.cpwOther key v) s = .next t)

/-- 41_cp15.md R108: the accesses of an extra slot that its policy allows: a read gives the constant or the raw value, a
write to storage is what the next read of storage gives and leaves every other key alone, an ignored write changes
nothing. The canonical form of the storage is part of the model's invariant. -/
def Obligations.ExtraSlotAccessesComplete : Prop :=
  ∀ (s : State) (key : Key) (v : Word) (e : ExtraSlot), s.live → extraSlot s.cfg key = some e → extraOk s.cp = true →
    (e.policy ≠ .wo →
      exec (.cprOther key) s = .next (s.respond (.ok (match e.read with
        | .constant c => c
        | .storage => s.cp.readExtra key))))
    ∧ (e.policy ≠ .ro → e.write = .ignore → exec (.cpwOther key v) s = .next (s.respond (.ok 0)))
    ∧ (e.policy ≠ .ro → e.write = .storage →
      ∃ ex, exec (.cpwOther key v) s = .next { s with cp := { s.cp with extra := ex }, response := some (.ok 0) }
        ∧ ({ s.cp with extra := ex } : ControlRegs).readExtra key = v
        ∧ ∀ k, k ≠ key → ({ s.cp with extra := ex } : ControlRegs).readExtra k = s.cp.readExtra k)

/-! ### The interrupt controller -/

/-- 42_interrupt.md R110: IRQRAISE of a legal id: an adjacent duplicate changes nothing; a full queue is
Fatal(QueueOverflow); else the id is appended. `ic_enabled` is neither read nor written. -/
def Obligations.IrqraiseQueuesTheLine : Prop :=
  ∀ (s : State) (irq : Irq), s.live → irq.toNat < s.cfg.irqCount →
    (s.ic.pending.getLast? = some irq → exec (.irqraise irq) s = .next (s.respond (.ok 0)))
    ∧ (s.ic.pending.getLast? ≠ some irq → s.cfg.irqQueueDepth = some s.ic.pending.length →
      exec (.irqraise irq) s = .next { s with
        fatal := some ⟨.queueOverflow, irq.setWidth 32⟩, response := some (.fatal .queueOverflow) })
    ∧ (s.ic.pending.getLast? ≠ some irq → s.cfg.irqQueueDepth ≠ some s.ic.pending.length →
      exec (.irqraise irq) s = .next { s with
        ic := { s.ic with pending := s.ic.pending ++ [irq] }, response := some (.ok 0) })

/-- 42_interrupt.md R111: IRQPEND answers 1 exactly when the controller is enabled and something is pending, as the level
output shows; it changes nothing but the response port. -/
def Obligations.IrqpendReportsTheLevelOutput : Prop :=
  ∀ s : State, s.live →
    exec .irqpend s = .next (s.respond (.ok (if s.ic.enabled = true ∧ s.ic.pending ≠ [] then 1 else 0)))
      ∧ ((levelOutputs s).irqPending = true ↔ s.ic.enabled = true ∧ s.ic.pending ≠ [])

/-- 42_interrupt.md R112: IRQACCEPT moves the oldest pending id to the end of `acknowledged` and returns it, whatever the
enable; an empty queue and a full one are Fatal and change neither queue. -/
def Obligations.IrqacceptTakesTheOldest : Prop :=
  ∀ s : State, s.live →
    (s.ic.pending = [] →
      exec .irqaccept s = .next { s with fatal := some ⟨.acceptEmpty, 0⟩, response := some (.fatal .acceptEmpty) })
    ∧ (∀ irq rest, s.ic.pending = irq :: rest →
      (s.cfg.irqQueueDepth = some s.ic.acknowledged.length →
        exec .irqaccept s = .next { s with
          fatal := some ⟨.queueOverflow, irq.setWidth 32⟩, response := some (.fatal .queueOverflow) })
      ∧ (s.cfg.irqQueueDepth ≠ some s.ic.acknowledged.length →
        exec .irqaccept s = .next { s with
          ic := { s.ic with pending := rest, acknowledged := s.ic.acknowledged ++ [irq] }
          response := some (.ok (irq.setWidth 32)) }))

/-- 42_interrupt.md R113: IRQEOI of the oldest acknowledged id removes it; any other id, or an empty `acknowledged`, is
Fatal(EoiMismatch) and changes neither queue. -/
def Obligations.IrqeoiCompletesTheOldest : Prop :=
  ∀ (s : State) (irq : Irq), s.live → irq.toNat < s.cfg.irqCount →
    (∀ rest, s.ic.acknowledged = irq :: rest →
      exec (.irqeoi irq) s = .next { s with ic := { s.ic with acknowledged := rest }, response := some (.ok 0) })
    ∧ (s.ic.acknowledged.head? ≠ some irq →
      exec (.irqeoi irq) s = .next { s with
        fatal := some ⟨.eoiMismatch, irq.setWidth 32⟩, response := some (.fatal .eoiMismatch) })

/-- 42_interrupt.md R114: IRQENABLE sets `ic_enabled` and nothing else, so no queued entry is lost. -/
def Obligations.IrqenableSetsTheEnable : Prop :=
  ∀ (s : State) (e : Bool), s.live →
    exec (.irqenable e) s = .next { s with ic := { s.ic with enabled := e }, response := some (.ok 0) }

/-! ### Outcomes -/

/-- 30_encoding.md R69 and 60_exceptions.md R126's codes: the response port's status and word. -/
def Obligations.ResponsesEncodeTheOutcome : Prop :=
  (∀ v, responseStatus (.ok v) = 0b00 ∧ responseWord (.ok v) = v)
  ∧ (∀ f : Abort, responseStatus (.abort f) = 0b01
      ∧ responseWord (.abort f)
        = BitVec.ofNat 32
          ((faultCode f.status).toNat + 2 ^ 11 * f.isWrite.toNat + 2 ^ 16 * f.isFetch.toNat))
  ∧ (∀ r, responseStatus (.fatal r) = 0b10 ∧ responseWord (.fatal r) = fatalCode r)
  ∧ (∀ r, responseStatus r ≠ 0b11)
  ∧ [FatalReason.unknownRegister, .policyViolation, .unmappedAddress, .unimplementedSplit, .tableNotInRam, .illegalCommand,
      .queueOverflow, .supersection, .largePage, .reservedAP, .vectoredIrq, .acceptEmpty, .eoiMismatch, .halted].map
        fatalCode = [1, 2, 3, 4, 5, 6, 7, 8, 9, 10, 11, 12, 13, 14]

/-- 10_state.md R34: while `S.fatal` is set every command, and every illegal word, ends in Fatal(Halted) and changes
nothing but the response port. -/
def Obligations.AHaltedBlockChangesNothing : Prop :=
  ∀ s : State, s.fatal ≠ none →
    (∀ i, exec i s = .next (s.respond (.fatal .halted))) ∧ ∀ cmd, execIllegal cmd s = .next (s.respond (.fatal .halted))

/-- 60_exceptions.md R126, 10_state.md R34: a FATAL response sets `S.fatal`, keeping the first Fatal, and changes no other
state; of STOREU the pieces before the Fatal stay (43_bus.md R124). -/
def Obligations.AFatalChangesOnlyTheFatalRecord : Prop :=
  ∀ (s t : State) (i : Instr) (r : FatalReason), exec i s = .next t → t.response = some (.fatal r) →
    t.cfg = s.cfg ∧ t.tc = s.tc ∧ t.cp = s.cp ∧ t.ic = s.ic ∧ SameClient s t
      ∧ (s.fatal ≠ none → t.fatal = s.fatal ∧ r = .halted) ∧ (s.fatal = none → ∃ info, t.fatal = some ⟨r, info⟩)
      ∧ ((∀ a d, i ≠ .storeu a d) → t.ram = s.ram ∧ SamePeripherals s t)

/-- 60_exceptions.md R128: an ABORT response leaves RAM, the peripherals and all other state as they were, but for the
fault registers; of STOREU the pieces before the abort stay. The abort says whether the command was a FETCH. -/
def Obligations.AbortsArePrecise : Prop :=
  ∀ (s t : State) (i : Instr) (f : Abort), exec i s = .next t → t.response = some (.abort f) →
    t.cfg = s.cfg ∧ t.tc = s.tc ∧ t.ic = s.ic ∧ t.fatal = s.fatal ∧ SameClient s t ∧ SameButFaultRegisters s.cp t.cp
      ∧ (f.isFetch = true ↔ ∃ p a, i = .fetch p a)
      ∧ ((∀ a d, i ≠ .storeu a d) → t.ram = s.ram ∧ SamePeripherals s t)

/-! ### The Scheduler -/

/-- 60_exceptions.md R139: the Scheduler goes to accept exactly when interrupts are not suppressed, the core's mask is
clear and IRQPEND answers 1; acceptance issues IRQACCEPT, clears `halted` and goes to the core's interrupt entry. -/
def Obligations.InterruptsAreAcceptedOnlyWhenAllThreeHold : Prop :=
  ∀ (s : State) (rest : List PortEvent), s.live →
    (∀ mask, s.inbox = .sched (.poll mask) :: rest → s.phase = .top →
      ∃ t, step s = .next t ∧ t.ic = s.ic
        ∧ (t.phase = .accept ↔
          s.sched.opts.suppressInterrupts = false ∧ mask = false ∧ s.ic.enabled = true ∧ s.ic.pending ≠ []))
    ∧ (∀ entry irq q, s.inbox = .sched (.accept entry) :: rest → s.phase = .accept → s.ic.pending = irq :: q →
      s.cfg.irqQueueDepth ≠ some s.ic.acknowledged.length →
      ∃ t, step s = .next t ∧ t.ic = { s.ic with pending := q, acknowledged := s.ic.acknowledged ++ [irq] }
        ∧ t.sched.halted = false ∧ t.sched.pc = entry ∧ t.response = some (.ok (irq.setWidth 32)))

/-- 60_exceptions.md R140: a step of a halted core performs only step 1 and ends the batch; and only an accepted interrupt
(or a restore) clears `halted`. -/
def Obligations.AHaltedCoreOnlyPolls : Prop :=
  (∀ (s : State) (rest : List PortEvent) (mask : Bool), s.live → s.inbox = .sched (.poll mask) :: rest → s.phase = .top →
    s.sched.halted = true →
    ¬(s.sched.opts.suppressInterrupts = false ∧ mask = false ∧ s.ic.enabled = true ∧ s.ic.pending ≠ []) →
    ∃ t, step s = .next t ∧ t.phase = .between ∧ t.batchLeft = 0 ∧ t.sched = s.sched ∧ t.fetched = s.fetched ∧ SameBlock s t)
  ∧ ∀ s t : State, step s = .next t → s.sched.halted = true → t.sched.halted = false →
      ∃ rest, (∃ entry, s.inbox = .sched (.accept entry) :: rest) ∨ (∃ n, s.inbox = .host (.restore n) :: rest)
        ∨ s.inbox = .host .restoreSaved :: rest

/-- 60_exceptions.md R141, R134: every abort of the Scheduler's FETCH goes to the prefetch-abort entry and ends the step with
`icount` as it was; every abort of a command of the executing core is redirected, a LOAD's, STORE's or STOREU's to the
data-abort entry. That an XLAT's goes there too and a FETCH's of step 7 to the prefetch-abort entry is the model's reading
(log 15). -/
def Obligations.AbortsGoToTheCoresEntries : Prop :=
  ∀ (s : State) (rest : List PortEvent),
    let s' := { s with inbox := rest }
    (∀ priv entry u f, s.inbox = .sched (.fetch priv entry) :: rest → s.phase = .fetch →
      exec (.fetch priv s.sched.pc) s' = .next u → u.response = some (.abort f) →
      ∃ t, step s = .next t ∧ t.sched = { s.sched with pc := entry } ∧ t.cp = u.cp ∧ (t.phase = .top ∨ t.phase = .between))
    ∧ (∀ c i u f, s.inbox = .command c :: rest → s.phase = .execute → decodeCommand c = .ok i →
      exec i s' = .next u → u.response = some (.abort f) →
      ∃ t, step s = .next t ∧ t.sched = s.sched ∧ t.cp = u.cp
        ∧ ((∃ p a, i = .fetch p a) → t.phase = .prefetchAborted) ∧ ((∀ p a, i ≠ .fetch p a) → t.phase = .dataAborted))
    ∧ (∀ entry, (s.inbox = .sched (.finish (.dataAbort entry)) :: rest ∧ s.phase = .dataAborted)
        ∨ (s.inbox = .sched (.finish (.prefetchAbort entry)) :: rest ∧ s.phase = .prefetchAborted) →
      ∃ t, step s = .next t ∧ t.sched = { s.sched with pc := entry } ∧ SameBlock s t ∧ (t.phase = .top ∨ t.phase = .between))

/-- 60_exceptions.md R142 with R138's step 8: a complete instruction, executed or with its condition failing, sets the pc to
the branch target or to pc + 4 and counts; exactly the four stop conditions stop the run, and on a stop the observer is
told the final pc. How `remaining` counts down is the model's reading (log 9); that the observer is told by the last entry of
the list of notices, after the branch event, is the model's choice (log 10). -/
def Obligations.StopConditionsOfStepEight : Prop :=
  ∀ (s : State) (rest : List PortEvent) (target : Option Word) (call wfi : Bool),
    (s.phase = .execute ∧ s.inbox = .sched (.finish (.completed target call wfi)) :: rest)
      ∨ (s.phase = .decode ∧ s.inbox = .sched (.decoded .conditionFails) :: rest ∧ target = none ∧ call = false ∧ wfi = false) →
    let pc' := target.getD (s.sched.pc + 4)
    let left := s.sched.remaining.map (· - 1)
    let stops := s.sched.opts.stopCounter = some (s.sched.icount + 1)
      ∨ (s.sched.opts.stopAtEveryBranch = true ∧ target ≠ none)
      ∨ (s.sched.opts.stopAtEveryFunccall = true ∧ call = true) ∨ left = some 0
    ∃ t, step s = .next t ∧ t.sched.pc = pc' ∧ t.sched.icount = s.sched.icount + 1 ∧ t.sched.remaining = left
      ∧ t.sched.halted = (s.sched.halted || wfi) ∧ SameBlock s t
      ∧ (stops → t.sched.running = false ∧ t.phase = .between ∧ t.notices.getLast? = some (.stopped pc'))
      ∧ (¬stops → t.sched.running = s.sched.running ∧ t.batchLeft = s.batchLeft - 1)

/-- 60_exceptions.md R143: a command or a Scheduler move that leaves a Fatal stops the run and reports the reason, the info
word and the pc; after it the run does not start again. The form of the report, one notice at the end of the list for the
first Fatal, is the model's choice (log 10). -/
def Obligations.AFatalStopsTheRunForGood : Prop :=
  (∀ (s t : State) (e : PortEvent) (rest : List PortEvent) (r : FatalRecord), s.inbox = e :: rest → (∀ m, e ≠ .host m) →
    step s = .next t → s.fatal = none → t.fatal = some r →
    t.sched.running = false ∧ t.phase = .between ∧ t.sched.pc = s.sched.pc
      ∧ t.notices = s.notices ++ [.fatal r.reason r.info s.sched.pc])
  ∧ ∀ (s t : State) (e : PortEvent) (rest : List PortEvent), s.inbox = e :: rest → (∀ m, e ≠ .host m) → s.fatal ≠ none →
      s.sched.running = false → step s = .next t → t.sched.running = false ∧ t.fatal = s.fatal

/-- 60_exceptions.md R137: a batch begins only while `running` is set and has min(BATCH_BUDGET, remaining) steps. Nothing but
the beginning of a batch raises the number of steps left; a step that goes back to the top uses one up and leaves one for the
next; a batch that ends leaves none; inside a step the number stays. Each move that ends a step does so: the redirections to
an entry, the aborted FETCH among them, lower the number by one and end the batch at 0, and a complete instruction does that
or stops the run. Cancelling clears `running` and pre-empts nothing. That the two exact next states, of a cancellation and of
an invocation while `running` is clear, report nothing to an observer is the model's choice (log 10), and that there is a
redirection to the prefetch-abort entry in step 7 is the model's reading (log 15). -/
def Obligations.BatchesAreBoundedAndCancelIsSeenAtTheTop : Prop :=
  ∀ (s : State) (rest : List PortEvent),
    (s.inbox = .sched .beginBatch :: rest → s.phase = .between →
      (s.sched.running = false → step s = .next { s with inbox := rest })
      ∧ (s.sched.running = true → ∃ t, step s = .next t
        ∧ t.batchLeft = (match s.sched.remaining with
          | none => s.cfg.batchBudget
          | some n => min s.cfg.batchBudget n)
        ∧ (t.phase = .top ↔ 0 < t.batchLeft) ∧ t.sched = s.sched ∧ SameBlock s t))
    ∧ (∀ t, step s = .next t → (∀ l, s.inbox ≠ .sched .beginBatch :: l) →
      t.batchLeft ≤ s.batchLeft
        ∧ (s.phase ≠ .top → t.phase = .top → t.batchLeft = s.batchLeft - 1 ∧ 0 < t.batchLeft)
        ∧ (s.phase ≠ .between → t.phase = .between → t.batchLeft = 0)
        ∧ (s.phase ≠ .between → t.phase ≠ .between → (s.phase = .top ∨ t.phase ≠ .top) → t.batchLeft = s.batchLeft))
    ∧ (∀ entry, (s.inbox = .sched (.decoded (.undefined entry)) :: rest ∧ s.phase = .decode)
        ∨ (s.inbox = .sched (.finish (.supervisorCall entry)) :: rest ∧ s.phase = .execute)
        ∨ (s.inbox = .sched (.finish (.dataAbort entry)) :: rest ∧ s.phase = .dataAborted)
        ∨ (s.inbox = .sched (.finish (.prefetchAbort entry)) :: rest ∧ s.phase = .prefetchAborted)
        ∨ (∃ priv u f, s.inbox = .sched (.fetch priv entry) :: rest ∧ s.phase = .fetch
          ∧ exec (.fetch priv s.sched.pc) { s with inbox := rest } = .next u ∧ u.response = some (.abort f)) →
      ∃ t, step s = .next t ∧ t.sched = { s.sched with pc := entry } ∧ t.batchLeft = s.batchLeft - 1
        ∧ t.phase = if s.batchLeft - 1 = 0 then .between else .top)
    ∧ (∀ target call wfi, (s.inbox = .sched (.finish (.completed target call wfi)) :: rest ∧ s.phase = .execute)
        ∨ (s.inbox = .sched (.decoded .conditionFails) :: rest ∧ s.phase = .decode) →
      ∃ t, step s = .next t
        ∧ ((t.phase = .top ∧ t.batchLeft = s.batchLeft - 1 ∧ 0 < t.batchLeft) ∨ (t.phase = .between ∧ t.batchLeft = 0)))
    ∧ (s.inbox = .sched .cancel :: rest →
      step s = .next { s with inbox := rest, sched := { s.sched with running := false } })

/-! ### Snapshots -/

/-- 70_reset_and_hazards.md R155: between batches, restoring a snapshot taken of a state with the block's invariant gives
back the whole block state, on a machine of the same configuration; a snapshot that breaks 10_state.md R35 is refused and
changes nothing. That the restore gives back the whole ExecutionState, with its flags, its stop options and the model's own
`started`, is the model's choice (log 11): R154 lists the Scheduler's counters only. -/
def Obligations.RestoreGivesBackTheSnapshot : Prop :=
  (∀ (s t : State) (rest : List PortEvent), s.Inv → t.cfg = s.cfg → t.phase = .between →
    t.inbox = .host (.restore (takeSnapshot s)) :: rest →
    ∃ u, step t = .next u ∧ SameBlock s u ∧ u.sched = s.sched ∧ SamePeripherals t u ∧ u.inbox = rest)
  ∧ ∀ (t : State) (rest : List PortEvent) (n : Snapshot), t.phase = .between → t.inbox = .host (.restore n) :: rest →
      agrees t.cfg n.tc n.cp = false → step t = .next { t with inbox := rest }

/-- 70_reset_and_hazards.md R155: two states that hold the same block state and whose peripherals answer alike give the same
response to every command, and the same block state after it, whatever else they hold. That the peripherals answer alike
is said by equal records of their accesses, which is the model's choice (log 4): R155 supposes equal answers, and a real
peripheral with an equal record need not give them. -/
def Obligations.SameBlockGivesSameAnswers : Prop :=
  ∀ (i : Instr) (s t s' t' : State), SameBlock s t → SamePeripherals s t → exec i s = .next s' → exec i t = .next t' →
    SameBlock s' t' ∧ SamePeripherals s' t' ∧ s'.response = t'.response
end

