-- ==== Sys2Proof/Laws/Encode.lean ====
section
/-! SUPPORT. The fields of the command words the encoder writes: the operation, the reserved-zero bits, the key, the
interrupt id. -/

namespace Sys2Proof

/-- The operation of a word whose top four bits are those of `n`. -/
theorem opField_of_bits {w : Word} {n : Nat} (hn : n < 16) (h : w.extractLsb' 28 4 = BitVec.ofNat 4 n) : opField w = n := by
  simp only [opField, field, h, BitVec.toNat_ofNat]
  omega

/-- The decoder's word and operands are the command's. -/
theorem decodeCommand_mk (cmd a d : Word) : decodeCommand ⟨cmd, a, d⟩ = decode cmd a d := rfl

/-! ### Format K -/

theorem opField_wordK {op : Word} (h : op = 4 ∨ op = 5) (key : Key) : opField (wordK op key) = op.toNat := by
  rcases h with rfl | rfl
  · refine opField_of_bits (n := 4) (by decide) (BitVec.eq_of_getElem_eq fun i hi => ?_)
    interval_cases i <;> simp [wordK]
  · refine opField_of_bits (n := 5) (by decide) (BitVec.eq_of_getElem_eq fun i hi => ?_)
    interval_cases i <;> simp [wordK]

theorem reservedSet_wordK {op : Word} (h : op = 4 ∨ op = 5) (key : Key) : reservedSet (wordK op key) reservedK = false := by
  simp only [reservedSet, bne_eq_false_iff_eq]
  refine BitVec.eq_of_getElem_eq fun i hi => ?_
  rcases h with rfl | rfl <;> interval_cases i <;> simp [wordK, reservedK]

theorem keyField_wordK {op : Word} (h : op = 4 ∨ op = 5) (key : Key) : keyField (wordK op key) = key := by
  refine BitVec.eq_of_getElem_eq fun i hi => ?_
  rcases h with rfl | rfl <;> simp [keyField, wordK] <;> interval_cases i <;> simp [BitVec.getLsbD_eq_getElem]

/-! ### Format I -/

theorem opField_wordI {op : Word} (h : op = 6 ∨ op = 9) (irq : Irq) : opField (wordI op irq) = op.toNat := by
  rcases h with rfl | rfl
  · refine opField_of_bits (n := 6) (by decide) (BitVec.eq_of_getElem_eq fun i hi => ?_)
    interval_cases i <;> simp [wordI]
  · refine opField_of_bits (n := 9) (by decide) (BitVec.eq_of_getElem_eq fun i hi => ?_)
    interval_cases i <;> simp [wordI]

theorem reservedSet_wordI {op : Word} (h : op = 6 ∨ op = 9) (irq : Irq) : reservedSet (wordI op irq) reservedI = false := by
  simp only [reservedSet, bne_eq_false_iff_eq]
  refine BitVec.eq_of_getElem_eq fun i hi => ?_
  rcases h with rfl | rfl <;> interval_cases i <;> simp [wordI, reservedI]

theorem irqField_wordI {op : Word} (h : op = 6 ∨ op = 9) (irq : Irq) : irqField (wordI op irq) = irq := by
  refine BitVec.eq_of_getElem_eq fun i hi => ?_
  rcases h with rfl | rfl <;> simp [irqField, wordI] <;> interval_cases i <;> simp [BitVec.getLsbD_eq_getElem]

/-! ### The decoder by operation -/

theorem decode_cpr {cmd : Word} (h : opField cmd = 4) (a d : Word) :
    decode cmd a d = decodeUnless cmd reservedK (cprOfKey (keyField cmd)) := by simp [decode, h]

theorem decode_cpw {cmd : Word} (h : opField cmd = 5) (a d : Word) :
    decode cmd a d = decodeUnless cmd reservedK (cpwOfKey (keyField cmd) d) := by simp [decode, h]

theorem decode_irqraise {cmd : Word} (h : opField cmd = 6) (a d : Word) :
    decode cmd a d = decodeUnless cmd reservedI (.irqraise (irqField cmd)) := by simp [decode, h]

theorem decode_irqeoi {cmd : Word} (h : opField cmd = 9) (a d : Word) :
    decode cmd a d = decodeUnless cmd reservedI (.irqeoi (irqField cmd)) := by simp [decode, h]

/-! ### Keys -/

/-- The named keys are the ten of the decoder. -/
theorem namedKeys_eq : namedKeys = [keySctlr, keyTtbr0, keyTtbr1, keyTtbcr, keyDacr, keyDfsr, keyIfsr, keyDfar, keyIfar,
    keyContextidr] := by decide

theorem cprOfKey_other {key : Key} (h : otherKey key = true) : cprOfKey key = .cprOther key := by
  simp only [otherKey, namedKeys_eq, List.contains_eq_mem, List.mem_cons, List.not_mem_nil, or_false, Bool.not_eq_true',
    decide_eq_false_iff_not, not_or] at h
  obtain ⟨h0, h1, h2, h3, h4, h5, h6, h7, h8, h9⟩ := h
  simp only [cprOfKey, h0, h1, h2, h3, h4, h5, h6, h7, h8, h9, if_false]

theorem cpwOfKey_other {key : Key} (h : otherKey key = true) (v : Word) : cpwOfKey key v = .cpwOther key v := by
  simp only [otherKey, namedKeys_eq, List.contains_eq_mem, List.mem_cons, List.not_mem_nil, or_false, Bool.not_eq_true',
    decide_eq_false_iff_not, not_or] at h
  obtain ⟨h0, h1, h2, h3, h4, h5, h6, h7, h8, h9⟩ := h
  simp only [cpwOfKey, h0, h1, h2, h3, h4, h5, h6, h7, h8, h9, if_false]

/-- The packed keys (30_encoding.md R66, 10_state.md R25). -/
theorem packed_keys : keySctlr = 0x0400 ∧ keyTtbr0 = 0x0800 ∧ keyTtbr1 = 0x0801 ∧ keyTtbcr = 0x0802 ∧ keyDacr = 0x0C00
    ∧ keyDfsr = 0x1400 ∧ keyIfsr = 0x1401 ∧ keyDfar = 0x1800 ∧ keyIfar = 0x1802 ∧ keyContextidr = 0x3401 := by decide

end Sys2Proof
end

