-- ==== Sys2Proof/Laws/State.lean ====
section
/-! SUPPORT. One lemma per field per state update, so that no proof unfolds an update. -/

namespace Sys2Proof.Machine

variable (s : State)

/-! ### respond -/

@[simp] theorem respond_cfg (r : Response) : (s.respond r).cfg = s.cfg := rfl
@[simp] theorem respond_tc (r : Response) : (s.respond r).tc = s.tc := rfl
@[simp] theorem respond_cp (r : Response) : (s.respond r).cp = s.cp := rfl
@[simp] theorem respond_ic (r : Response) : (s.respond r).ic = s.ic := rfl
@[simp] theorem respond_ram (r : Response) : (s.respond r).ram = s.ram := rfl
@[simp] theorem respond_fatal (r : Response) : (s.respond r).fatal = s.fatal := rfl
@[simp] theorem respond_response (r : Response) : (s.respond r).response = some r := rfl
@[simp] theorem respond_periphLog (r : Response) : (s.respond r).periphLog = s.periphLog := rfl
@[simp] theorem respond_draws (r : Response) : (s.respond r).draws = s.draws := rfl
@[simp] theorem respond_inbox (r : Response) : (s.respond r).inbox = s.inbox := rfl
@[simp] theorem respond_sched (r : Response) : (s.respond r).sched = s.sched := rfl
@[simp] theorem respond_phase (r : Response) : (s.respond r).phase = s.phase := rfl
@[simp] theorem respond_batchLeft (r : Response) : (s.respond r).batchLeft = s.batchLeft := rfl
@[simp] theorem respond_notices (r : Response) : (s.respond r).notices = s.notices := rfl
@[simp] theorem respond_saved (r : Response) : (s.respond r).saved = s.saved := rfl
@[simp] theorem respond_fetched (r : Response) : (s.respond r).fetched = s.fetched := rfl

/-! ### writeByte -/

@[simp] theorem writeByte_cfg (a : Nat) (b : Byte) : (s.writeByte a b).cfg = s.cfg := rfl
@[simp] theorem writeByte_tc (a : Nat) (b : Byte) : (s.writeByte a b).tc = s.tc := rfl
@[simp] theorem writeByte_cp (a : Nat) (b : Byte) : (s.writeByte a b).cp = s.cp := rfl
@[simp] theorem writeByte_ic (a : Nat) (b : Byte) : (s.writeByte a b).ic = s.ic := rfl
@[simp] theorem writeByte_ram (a : Nat) (b : Byte) : (s.writeByte a b).ram = sparseSet s.ram a b (ramInit s.cfg a) := rfl
@[simp] theorem writeByte_fatal (a : Nat) (b : Byte) : (s.writeByte a b).fatal = s.fatal := rfl
@[simp] theorem writeByte_response (a : Nat) (b : Byte) : (s.writeByte a b).response = s.response := rfl
@[simp] theorem writeByte_periphLog (a : Nat) (b : Byte) : (s.writeByte a b).periphLog = s.periphLog := rfl
@[simp] theorem writeByte_draws (a : Nat) (b : Byte) : (s.writeByte a b).draws = s.draws := rfl
@[simp] theorem writeByte_inbox (a : Nat) (b : Byte) : (s.writeByte a b).inbox = s.inbox := rfl
@[simp] theorem writeByte_sched (a : Nat) (b : Byte) : (s.writeByte a b).sched = s.sched := rfl
@[simp] theorem writeByte_phase (a : Nat) (b : Byte) : (s.writeByte a b).phase = s.phase := rfl
@[simp] theorem writeByte_batchLeft (a : Nat) (b : Byte) : (s.writeByte a b).batchLeft = s.batchLeft := rfl
@[simp] theorem writeByte_notices (a : Nat) (b : Byte) : (s.writeByte a b).notices = s.notices := rfl
@[simp] theorem writeByte_saved (a : Nat) (b : Byte) : (s.writeByte a b).saved = s.saved := rfl
@[simp] theorem writeByte_fetched (a : Nat) (b : Byte) : (s.writeByte a b).fetched = s.fetched := rfl

/-! ### setMemoryAbort -/

@[simp] theorem setMemoryAbort_cfg (va : Word) (code : BitVec 5) (w : Bool) : (s.setMemoryAbort va code w).cfg = s.cfg := rfl
@[simp] theorem setMemoryAbort_tc (va : Word) (code : BitVec 5) (w : Bool) : (s.setMemoryAbort va code w).tc = s.tc := rfl
@[simp] theorem setMemoryAbort_cp (va : Word) (code : BitVec 5) (w : Bool) : (s.setMemoryAbort va code w).cp = { s.cp with dfar := va, ifar := va, dfsr := fsrValue code w, ifsr := fsrValue code w } := rfl
@[simp] theorem setMemoryAbort_ic (va : Word) (code : BitVec 5) (w : Bool) : (s.setMemoryAbort va code w).ic = s.ic := rfl
@[simp] theorem setMemoryAbort_ram (va : Word) (code : BitVec 5) (w : Bool) : (s.setMemoryAbort va code w).ram = s.ram := rfl
@[simp] theorem setMemoryAbort_fatal (va : Word) (code : BitVec 5) (w : Bool) : (s.setMemoryAbort va code w).fatal = s.fatal := rfl
@[simp] theorem setMemoryAbort_response (va : Word) (code : BitVec 5) (w : Bool) : (s.setMemoryAbort va code w).response = s.response := rfl
@[simp] theorem setMemoryAbort_periphLog (va : Word) (code : BitVec 5) (w : Bool) : (s.setMemoryAbort va code w).periphLog = s.periphLog := rfl
@[simp] theorem setMemoryAbort_draws (va : Word) (code : BitVec 5) (w : Bool) : (s.setMemoryAbort va code w).draws = s.draws := rfl
@[simp] theorem setMemoryAbort_inbox (va : Word) (code : BitVec 5) (w : Bool) : (s.setMemoryAbort va code w).inbox = s.inbox := rfl
@[simp] theorem setMemoryAbort_sched (va : Word) (code : BitVec 5) (w : Bool) : (s.setMemoryAbort va code w).sched = s.sched := rfl
@[simp] theorem setMemoryAbort_phase (va : Word) (code : BitVec 5) (w : Bool) : (s.setMemoryAbort va code w).phase = s.phase := rfl
@[simp] theorem setMemoryAbort_batchLeft (va : Word) (code : BitVec 5) (w : Bool) : (s.setMemoryAbort va code w).batchLeft = s.batchLeft := rfl
@[simp] theorem setMemoryAbort_notices (va : Word) (code : BitVec 5) (w : Bool) : (s.setMemoryAbort va code w).notices = s.notices := rfl
@[simp] theorem setMemoryAbort_saved (va : Word) (code : BitVec 5) (w : Bool) : (s.setMemoryAbort va code w).saved = s.saved := rfl
@[simp] theorem setMemoryAbort_fetched (va : Word) (code : BitVec 5) (w : Bool) : (s.setMemoryAbort va code w).fetched = s.fetched := rfl

/-! ### logPeriph -/

@[simp] theorem logPeriph_cfg (e : PeriphEvent) : (s.logPeriph e).cfg = s.cfg := rfl
@[simp] theorem logPeriph_tc (e : PeriphEvent) : (s.logPeriph e).tc = s.tc := rfl
@[simp] theorem logPeriph_cp (e : PeriphEvent) : (s.logPeriph e).cp = s.cp := rfl
@[simp] theorem logPeriph_ic (e : PeriphEvent) : (s.logPeriph e).ic = s.ic := rfl
@[simp] theorem logPeriph_ram (e : PeriphEvent) : (s.logPeriph e).ram = s.ram := rfl
@[simp] theorem logPeriph_fatal (e : PeriphEvent) : (s.logPeriph e).fatal = s.fatal := rfl
@[simp] theorem logPeriph_response (e : PeriphEvent) : (s.logPeriph e).response = s.response := rfl
@[simp] theorem logPeriph_periphLog (e : PeriphEvent) : (s.logPeriph e).periphLog = s.periphLog ++ [e] := rfl
@[simp] theorem logPeriph_draws (e : PeriphEvent) : (s.logPeriph e).draws = s.draws := rfl
@[simp] theorem logPeriph_inbox (e : PeriphEvent) : (s.logPeriph e).inbox = s.inbox := rfl
@[simp] theorem logPeriph_sched (e : PeriphEvent) : (s.logPeriph e).sched = s.sched := rfl
@[simp] theorem logPeriph_phase (e : PeriphEvent) : (s.logPeriph e).phase = s.phase := rfl
@[simp] theorem logPeriph_batchLeft (e : PeriphEvent) : (s.logPeriph e).batchLeft = s.batchLeft := rfl
@[simp] theorem logPeriph_notices (e : PeriphEvent) : (s.logPeriph e).notices = s.notices := rfl
@[simp] theorem logPeriph_saved (e : PeriphEvent) : (s.logPeriph e).saved = s.saved := rfl
@[simp] theorem logPeriph_fetched (e : PeriphEvent) : (s.logPeriph e).fetched = s.fetched := rfl

/-! ### setTc -/

@[simp] theorem setTc_cfg (tc : TranslationContext) : (s.setTc tc).cfg = s.cfg := rfl
@[simp] theorem setTc_tc (tc : TranslationContext) : (s.setTc tc).tc = tc := rfl
@[simp] theorem setTc_cp (tc : TranslationContext) : (s.setTc tc).cp = s.cp := rfl
@[simp] theorem setTc_ic (tc : TranslationContext) : (s.setTc tc).ic = s.ic := rfl
@[simp] theorem setTc_ram (tc : TranslationContext) : (s.setTc tc).ram = s.ram := rfl
@[simp] theorem setTc_fatal (tc : TranslationContext) : (s.setTc tc).fatal = s.fatal := rfl
@[simp] theorem setTc_response (tc : TranslationContext) : (s.setTc tc).response = s.response := rfl
@[simp] theorem setTc_periphLog (tc : TranslationContext) : (s.setTc tc).periphLog = s.periphLog := rfl
@[simp] theorem setTc_draws (tc : TranslationContext) : (s.setTc tc).draws = s.draws := rfl
@[simp] theorem setTc_inbox (tc : TranslationContext) : (s.setTc tc).inbox = s.inbox := rfl
@[simp] theorem setTc_sched (tc : TranslationContext) : (s.setTc tc).sched = s.sched := rfl
@[simp] theorem setTc_phase (tc : TranslationContext) : (s.setTc tc).phase = s.phase := rfl
@[simp] theorem setTc_batchLeft (tc : TranslationContext) : (s.setTc tc).batchLeft = s.batchLeft := rfl
@[simp] theorem setTc_notices (tc : TranslationContext) : (s.setTc tc).notices = s.notices := rfl
@[simp] theorem setTc_saved (tc : TranslationContext) : (s.setTc tc).saved = s.saved := rfl
@[simp] theorem setTc_fetched (tc : TranslationContext) : (s.setTc tc).fetched = s.fetched := rfl

/-! ### setCp -/

@[simp] theorem setCp_cfg (cp : ControlRegs) : (s.setCp cp).cfg = s.cfg := rfl
@[simp] theorem setCp_tc (cp : ControlRegs) : (s.setCp cp).tc = s.tc := rfl
@[simp] theorem setCp_cp (cp : ControlRegs) : (s.setCp cp).cp = cp := rfl
@[simp] theorem setCp_ic (cp : ControlRegs) : (s.setCp cp).ic = s.ic := rfl
@[simp] theorem setCp_ram (cp : ControlRegs) : (s.setCp cp).ram = s.ram := rfl
@[simp] theorem setCp_fatal (cp : ControlRegs) : (s.setCp cp).fatal = s.fatal := rfl
@[simp] theorem setCp_response (cp : ControlRegs) : (s.setCp cp).response = s.response := rfl
@[simp] theorem setCp_periphLog (cp : ControlRegs) : (s.setCp cp).periphLog = s.periphLog := rfl
@[simp] theorem setCp_draws (cp : ControlRegs) : (s.setCp cp).draws = s.draws := rfl
@[simp] theorem setCp_inbox (cp : ControlRegs) : (s.setCp cp).inbox = s.inbox := rfl
@[simp] theorem setCp_sched (cp : ControlRegs) : (s.setCp cp).sched = s.sched := rfl
@[simp] theorem setCp_phase (cp : ControlRegs) : (s.setCp cp).phase = s.phase := rfl
@[simp] theorem setCp_batchLeft (cp : ControlRegs) : (s.setCp cp).batchLeft = s.batchLeft := rfl
@[simp] theorem setCp_notices (cp : ControlRegs) : (s.setCp cp).notices = s.notices := rfl
@[simp] theorem setCp_saved (cp : ControlRegs) : (s.setCp cp).saved = s.saved := rfl
@[simp] theorem setCp_fetched (cp : ControlRegs) : (s.setCp cp).fetched = s.fetched := rfl

/-! ### setIc -/

@[simp] theorem setIc_cfg (ic : InterruptController) : (s.setIc ic).cfg = s.cfg := rfl
@[simp] theorem setIc_tc (ic : InterruptController) : (s.setIc ic).tc = s.tc := rfl
@[simp] theorem setIc_cp (ic : InterruptController) : (s.setIc ic).cp = s.cp := rfl
@[simp] theorem setIc_ic (ic : InterruptController) : (s.setIc ic).ic = ic := rfl
@[simp] theorem setIc_ram (ic : InterruptController) : (s.setIc ic).ram = s.ram := rfl
@[simp] theorem setIc_fatal (ic : InterruptController) : (s.setIc ic).fatal = s.fatal := rfl
@[simp] theorem setIc_response (ic : InterruptController) : (s.setIc ic).response = s.response := rfl
@[simp] theorem setIc_periphLog (ic : InterruptController) : (s.setIc ic).periphLog = s.periphLog := rfl
@[simp] theorem setIc_draws (ic : InterruptController) : (s.setIc ic).draws = s.draws := rfl
@[simp] theorem setIc_inbox (ic : InterruptController) : (s.setIc ic).inbox = s.inbox := rfl
@[simp] theorem setIc_sched (ic : InterruptController) : (s.setIc ic).sched = s.sched := rfl
@[simp] theorem setIc_phase (ic : InterruptController) : (s.setIc ic).phase = s.phase := rfl
@[simp] theorem setIc_batchLeft (ic : InterruptController) : (s.setIc ic).batchLeft = s.batchLeft := rfl
@[simp] theorem setIc_notices (ic : InterruptController) : (s.setIc ic).notices = s.notices := rfl
@[simp] theorem setIc_saved (ic : InterruptController) : (s.setIc ic).saved = s.saved := rfl
@[simp] theorem setIc_fetched (ic : InterruptController) : (s.setIc ic).fetched = s.fetched := rfl

/-! ### setPc -/

@[simp] theorem setPc_cfg (pc : Word) : (s.setPc pc).cfg = s.cfg := rfl
@[simp] theorem setPc_tc (pc : Word) : (s.setPc pc).tc = s.tc := rfl
@[simp] theorem setPc_cp (pc : Word) : (s.setPc pc).cp = s.cp := rfl
@[simp] theorem setPc_ic (pc : Word) : (s.setPc pc).ic = s.ic := rfl
@[simp] theorem setPc_ram (pc : Word) : (s.setPc pc).ram = s.ram := rfl
@[simp] theorem setPc_fatal (pc : Word) : (s.setPc pc).fatal = s.fatal := rfl
@[simp] theorem setPc_response (pc : Word) : (s.setPc pc).response = s.response := rfl
@[simp] theorem setPc_periphLog (pc : Word) : (s.setPc pc).periphLog = s.periphLog := rfl
@[simp] theorem setPc_draws (pc : Word) : (s.setPc pc).draws = s.draws := rfl
@[simp] theorem setPc_inbox (pc : Word) : (s.setPc pc).inbox = s.inbox := rfl
@[simp] theorem setPc_sched (pc : Word) : (s.setPc pc).sched = { s.sched with pc := pc } := rfl
@[simp] theorem setPc_phase (pc : Word) : (s.setPc pc).phase = s.phase := rfl
@[simp] theorem setPc_batchLeft (pc : Word) : (s.setPc pc).batchLeft = s.batchLeft := rfl
@[simp] theorem setPc_notices (pc : Word) : (s.setPc pc).notices = s.notices := rfl
@[simp] theorem setPc_saved (pc : Word) : (s.setPc pc).saved = s.saved := rfl
@[simp] theorem setPc_fetched (pc : Word) : (s.setPc pc).fetched = s.fetched := rfl

/-! ### setRunning -/

@[simp] theorem setRunning_cfg (b : Bool) : (s.setRunning b).cfg = s.cfg := rfl
@[simp] theorem setRunning_tc (b : Bool) : (s.setRunning b).tc = s.tc := rfl
@[simp] theorem setRunning_cp (b : Bool) : (s.setRunning b).cp = s.cp := rfl
@[simp] theorem setRunning_ic (b : Bool) : (s.setRunning b).ic = s.ic := rfl
@[simp] theorem setRunning_ram (b : Bool) : (s.setRunning b).ram = s.ram := rfl
@[simp] theorem setRunning_fatal (b : Bool) : (s.setRunning b).fatal = s.fatal := rfl
@[simp] theorem setRunning_response (b : Bool) : (s.setRunning b).response = s.response := rfl
@[simp] theorem setRunning_periphLog (b : Bool) : (s.setRunning b).periphLog = s.periphLog := rfl
@[simp] theorem setRunning_draws (b : Bool) : (s.setRunning b).draws = s.draws := rfl
@[simp] theorem setRunning_inbox (b : Bool) : (s.setRunning b).inbox = s.inbox := rfl
@[simp] theorem setRunning_sched (b : Bool) : (s.setRunning b).sched = { s.sched with running := b } := rfl
@[simp] theorem setRunning_phase (b : Bool) : (s.setRunning b).phase = s.phase := rfl
@[simp] theorem setRunning_batchLeft (b : Bool) : (s.setRunning b).batchLeft = s.batchLeft := rfl
@[simp] theorem setRunning_notices (b : Bool) : (s.setRunning b).notices = s.notices := rfl
@[simp] theorem setRunning_saved (b : Bool) : (s.setRunning b).saved = s.saved := rfl
@[simp] theorem setRunning_fetched (b : Bool) : (s.setRunning b).fetched = s.fetched := rfl

/-! ### setHalted -/

@[simp] theorem setHalted_cfg (b : Bool) : (s.setHalted b).cfg = s.cfg := rfl
@[simp] theorem setHalted_tc (b : Bool) : (s.setHalted b).tc = s.tc := rfl
@[simp] theorem setHalted_cp (b : Bool) : (s.setHalted b).cp = s.cp := rfl
@[simp] theorem setHalted_ic (b : Bool) : (s.setHalted b).ic = s.ic := rfl
@[simp] theorem setHalted_ram (b : Bool) : (s.setHalted b).ram = s.ram := rfl
@[simp] theorem setHalted_fatal (b : Bool) : (s.setHalted b).fatal = s.fatal := rfl
@[simp] theorem setHalted_response (b : Bool) : (s.setHalted b).response = s.response := rfl
@[simp] theorem setHalted_periphLog (b : Bool) : (s.setHalted b).periphLog = s.periphLog := rfl
@[simp] theorem setHalted_draws (b : Bool) : (s.setHalted b).draws = s.draws := rfl
@[simp] theorem setHalted_inbox (b : Bool) : (s.setHalted b).inbox = s.inbox := rfl
@[simp] theorem setHalted_sched (b : Bool) : (s.setHalted b).sched = { s.sched with halted := b } := rfl
@[simp] theorem setHalted_phase (b : Bool) : (s.setHalted b).phase = s.phase := rfl
@[simp] theorem setHalted_batchLeft (b : Bool) : (s.setHalted b).batchLeft = s.batchLeft := rfl
@[simp] theorem setHalted_notices (b : Bool) : (s.setHalted b).notices = s.notices := rfl
@[simp] theorem setHalted_saved (b : Bool) : (s.setHalted b).saved = s.saved := rfl
@[simp] theorem setHalted_fetched (b : Bool) : (s.setHalted b).fetched = s.fetched := rfl

/-! ### setPhase -/

@[simp] theorem setPhase_cfg (p : SchedPhase) : (s.setPhase p).cfg = s.cfg := rfl
@[simp] theorem setPhase_tc (p : SchedPhase) : (s.setPhase p).tc = s.tc := rfl
@[simp] theorem setPhase_cp (p : SchedPhase) : (s.setPhase p).cp = s.cp := rfl
@[simp] theorem setPhase_ic (p : SchedPhase) : (s.setPhase p).ic = s.ic := rfl
@[simp] theorem setPhase_ram (p : SchedPhase) : (s.setPhase p).ram = s.ram := rfl
@[simp] theorem setPhase_fatal (p : SchedPhase) : (s.setPhase p).fatal = s.fatal := rfl
@[simp] theorem setPhase_response (p : SchedPhase) : (s.setPhase p).response = s.response := rfl
@[simp] theorem setPhase_periphLog (p : SchedPhase) : (s.setPhase p).periphLog = s.periphLog := rfl
@[simp] theorem setPhase_draws (p : SchedPhase) : (s.setPhase p).draws = s.draws := rfl
@[simp] theorem setPhase_inbox (p : SchedPhase) : (s.setPhase p).inbox = s.inbox := rfl
@[simp] theorem setPhase_sched (p : SchedPhase) : (s.setPhase p).sched = s.sched := rfl
@[simp] theorem setPhase_phase (p : SchedPhase) : (s.setPhase p).phase = p := rfl
@[simp] theorem setPhase_batchLeft (p : SchedPhase) : (s.setPhase p).batchLeft = s.batchLeft := rfl
@[simp] theorem setPhase_notices (p : SchedPhase) : (s.setPhase p).notices = s.notices := rfl
@[simp] theorem setPhase_saved (p : SchedPhase) : (s.setPhase p).saved = s.saved := rfl
@[simp] theorem setPhase_fetched (p : SchedPhase) : (s.setPhase p).fetched = s.fetched := rfl

/-! ### notify -/

@[simp] theorem notify_cfg (n : Notice) : (s.notify n).cfg = s.cfg := rfl
@[simp] theorem notify_tc (n : Notice) : (s.notify n).tc = s.tc := rfl
@[simp] theorem notify_cp (n : Notice) : (s.notify n).cp = s.cp := rfl
@[simp] theorem notify_ic (n : Notice) : (s.notify n).ic = s.ic := rfl
@[simp] theorem notify_ram (n : Notice) : (s.notify n).ram = s.ram := rfl
@[simp] theorem notify_fatal (n : Notice) : (s.notify n).fatal = s.fatal := rfl
@[simp] theorem notify_response (n : Notice) : (s.notify n).response = s.response := rfl
@[simp] theorem notify_periphLog (n : Notice) : (s.notify n).periphLog = s.periphLog := rfl
@[simp] theorem notify_draws (n : Notice) : (s.notify n).draws = s.draws := rfl
@[simp] theorem notify_inbox (n : Notice) : (s.notify n).inbox = s.inbox := rfl
@[simp] theorem notify_sched (n : Notice) : (s.notify n).sched = s.sched := rfl
@[simp] theorem notify_phase (n : Notice) : (s.notify n).phase = s.phase := rfl
@[simp] theorem notify_batchLeft (n : Notice) : (s.notify n).batchLeft = s.batchLeft := rfl
@[simp] theorem notify_notices (n : Notice) : (s.notify n).notices = s.notices ++ [n] := rfl
@[simp] theorem notify_saved (n : Notice) : (s.notify n).saved = s.saved := rfl
@[simp] theorem notify_fetched (n : Notice) : (s.notify n).fetched = s.fetched := rfl

/-! ### markFetched -/

@[simp] theorem markFetched_cfg (b : Bool) : (s.markFetched b).cfg = s.cfg := rfl
@[simp] theorem markFetched_tc (b : Bool) : (s.markFetched b).tc = s.tc := rfl
@[simp] theorem markFetched_cp (b : Bool) : (s.markFetched b).cp = s.cp := rfl
@[simp] theorem markFetched_ic (b : Bool) : (s.markFetched b).ic = s.ic := rfl
@[simp] theorem markFetched_ram (b : Bool) : (s.markFetched b).ram = s.ram := rfl
@[simp] theorem markFetched_fatal (b : Bool) : (s.markFetched b).fatal = s.fatal := rfl
@[simp] theorem markFetched_response (b : Bool) : (s.markFetched b).response = s.response := rfl
@[simp] theorem markFetched_periphLog (b : Bool) : (s.markFetched b).periphLog = s.periphLog := rfl
@[simp] theorem markFetched_draws (b : Bool) : (s.markFetched b).draws = s.draws := rfl
@[simp] theorem markFetched_inbox (b : Bool) : (s.markFetched b).inbox = s.inbox := rfl
@[simp] theorem markFetched_sched (b : Bool) : (s.markFetched b).sched = s.sched := rfl
@[simp] theorem markFetched_phase (b : Bool) : (s.markFetched b).phase = s.phase := rfl
@[simp] theorem markFetched_batchLeft (b : Bool) : (s.markFetched b).batchLeft = s.batchLeft := rfl
@[simp] theorem markFetched_notices (b : Bool) : (s.markFetched b).notices = s.notices := rfl
@[simp] theorem markFetched_saved (b : Bool) : (s.markFetched b).saved = s.saved := rfl
@[simp] theorem markFetched_fetched (b : Bool) : (s.markFetched b).fetched = (s.fetched || b) := rfl

/-! ### endBatch -/

@[simp] theorem endBatch_cfg : (endBatch s).cfg = s.cfg := rfl
@[simp] theorem endBatch_tc : (endBatch s).tc = s.tc := rfl
@[simp] theorem endBatch_cp : (endBatch s).cp = s.cp := rfl
@[simp] theorem endBatch_ic : (endBatch s).ic = s.ic := rfl
@[simp] theorem endBatch_ram : (endBatch s).ram = s.ram := rfl
@[simp] theorem endBatch_fatal : (endBatch s).fatal = s.fatal := rfl
@[simp] theorem endBatch_response : (endBatch s).response = s.response := rfl
@[simp] theorem endBatch_periphLog : (endBatch s).periphLog = s.periphLog := rfl
@[simp] theorem endBatch_draws : (endBatch s).draws = s.draws := rfl
@[simp] theorem endBatch_inbox : (endBatch s).inbox = s.inbox := rfl
@[simp] theorem endBatch_sched : (endBatch s).sched = s.sched := rfl
@[simp] theorem endBatch_phase : (endBatch s).phase = .between := rfl
@[simp] theorem endBatch_batchLeft : (endBatch s).batchLeft = 0 := rfl
@[simp] theorem endBatch_notices : (endBatch s).notices = s.notices := rfl
@[simp] theorem endBatch_saved : (endBatch s).saved = s.saved := rfl
@[simp] theorem endBatch_fetched : (endBatch s).fetched = s.fetched := rfl

/-! ### endStep -/

@[simp] theorem endStep_cfg : (endStep s).cfg = s.cfg := rfl
@[simp] theorem endStep_tc : (endStep s).tc = s.tc := rfl
@[simp] theorem endStep_cp : (endStep s).cp = s.cp := rfl
@[simp] theorem endStep_ic : (endStep s).ic = s.ic := rfl
@[simp] theorem endStep_ram : (endStep s).ram = s.ram := rfl
@[simp] theorem endStep_fatal : (endStep s).fatal = s.fatal := rfl
@[simp] theorem endStep_response : (endStep s).response = s.response := rfl
@[simp] theorem endStep_periphLog : (endStep s).periphLog = s.periphLog := rfl
@[simp] theorem endStep_draws : (endStep s).draws = s.draws := rfl
@[simp] theorem endStep_inbox : (endStep s).inbox = s.inbox := rfl
@[simp] theorem endStep_sched : (endStep s).sched = s.sched := rfl
@[simp] theorem endStep_phase : (endStep s).phase = if s.batchLeft - 1 = 0 then .between else .top := rfl
@[simp] theorem endStep_batchLeft : (endStep s).batchLeft = s.batchLeft - 1 := rfl
@[simp] theorem endStep_notices : (endStep s).notices = s.notices := rfl
@[simp] theorem endStep_saved : (endStep s).saved = s.saved := rfl
@[simp] theorem endStep_fetched : (endStep s).fetched = s.fetched := rfl

/-! ### setFatal -/

@[simp] theorem setFatal_cfg (r : FatalReason) (info : Word) : (s.setFatal r info).cfg = s.cfg := by
  unfold State.setFatal; split <;> rfl
@[simp] theorem setFatal_tc (r : FatalReason) (info : Word) : (s.setFatal r info).tc = s.tc := by
  unfold State.setFatal; split <;> rfl
@[simp] theorem setFatal_cp (r : FatalReason) (info : Word) : (s.setFatal r info).cp = s.cp := by
  unfold State.setFatal; split <;> rfl
@[simp] theorem setFatal_ic (r : FatalReason) (info : Word) : (s.setFatal r info).ic = s.ic := by
  unfold State.setFatal; split <;> rfl
@[simp] theorem setFatal_ram (r : FatalReason) (info : Word) : (s.setFatal r info).ram = s.ram := by
  unfold State.setFatal; split <;> rfl
@[simp] theorem setFatal_fatal (r : FatalReason) (info : Word) : (s.setFatal r info).fatal = some (s.fatal.getD ⟨r, info⟩) := by
  unfold State.setFatal; split <;> simp_all
@[simp] theorem setFatal_response (r : FatalReason) (info : Word) : (s.setFatal r info).response = s.response := by
  unfold State.setFatal; split <;> rfl
@[simp] theorem setFatal_periphLog (r : FatalReason) (info : Word) : (s.setFatal r info).periphLog = s.periphLog := by
  unfold State.setFatal; split <;> rfl
@[simp] theorem setFatal_draws (r : FatalReason) (info : Word) : (s.setFatal r info).draws = s.draws := by
  unfold State.setFatal; split <;> rfl
@[simp] theorem setFatal_inbox (r : FatalReason) (info : Word) : (s.setFatal r info).inbox = s.inbox := by
  unfold State.setFatal; split <;> rfl
@[simp] theorem setFatal_sched (r : FatalReason) (info : Word) : (s.setFatal r info).sched = s.sched := by
  unfold State.setFatal; split <;> rfl
@[simp] theorem setFatal_phase (r : FatalReason) (info : Word) : (s.setFatal r info).phase = s.phase := by
  unfold State.setFatal; split <;> rfl
@[simp] theorem setFatal_batchLeft (r : FatalReason) (info : Word) : (s.setFatal r info).batchLeft = s.batchLeft := by
  unfold State.setFatal; split <;> rfl
@[simp] theorem setFatal_notices (r : FatalReason) (info : Word) : (s.setFatal r info).notices = s.notices := by
  unfold State.setFatal; split <;> rfl
@[simp] theorem setFatal_saved (r : FatalReason) (info : Word) : (s.setFatal r info).saved = s.saved := by
  unfold State.setFatal; split <;> rfl
@[simp] theorem setFatal_fetched (r : FatalReason) (info : Word) : (s.setFatal r info).fetched = s.fetched := by
  unfold State.setFatal; split <;> rfl

/-! ### memWrite -/

@[simp] theorem memWrite_cfg (pa : Word) (w : Width) (v : Word) : (memWrite s pa w v).cfg = s.cfg := by
  cases w <;> rfl
@[simp] theorem memWrite_tc (pa : Word) (w : Width) (v : Word) : (memWrite s pa w v).tc = s.tc := by
  cases w <;> rfl
@[simp] theorem memWrite_cp (pa : Word) (w : Width) (v : Word) : (memWrite s pa w v).cp = s.cp := by
  cases w <;> rfl
@[simp] theorem memWrite_ic (pa : Word) (w : Width) (v : Word) : (memWrite s pa w v).ic = s.ic := by
  cases w <;> rfl
@[simp] theorem memWrite_fatal (pa : Word) (w : Width) (v : Word) : (memWrite s pa w v).fatal = s.fatal := by
  cases w <;> rfl
@[simp] theorem memWrite_response (pa : Word) (w : Width) (v : Word) : (memWrite s pa w v).response = s.response := by
  cases w <;> rfl
@[simp] theorem memWrite_periphLog (pa : Word) (w : Width) (v : Word) : (memWrite s pa w v).periphLog = s.periphLog := by
  cases w <;> rfl
@[simp] theorem memWrite_draws (pa : Word) (w : Width) (v : Word) : (memWrite s pa w v).draws = s.draws := by
  cases w <;> rfl
@[simp] theorem memWrite_inbox (pa : Word) (w : Width) (v : Word) : (memWrite s pa w v).inbox = s.inbox := by
  cases w <;> rfl
@[simp] theorem memWrite_sched (pa : Word) (w : Width) (v : Word) : (memWrite s pa w v).sched = s.sched := by
  cases w <;> rfl
@[simp] theorem memWrite_phase (pa : Word) (w : Width) (v : Word) : (memWrite s pa w v).phase = s.phase := by
  cases w <;> rfl
@[simp] theorem memWrite_batchLeft (pa : Word) (w : Width) (v : Word) : (memWrite s pa w v).batchLeft = s.batchLeft := by
  cases w <;> rfl
@[simp] theorem memWrite_notices (pa : Word) (w : Width) (v : Word) : (memWrite s pa w v).notices = s.notices := by
  cases w <;> rfl
@[simp] theorem memWrite_saved (pa : Word) (w : Width) (v : Word) : (memWrite s pa w v).saved = s.saved := by
  cases w <;> rfl
@[simp] theorem memWrite_fetched (pa : Word) (w : Width) (v : Word) : (memWrite s pa w v).fetched = s.fetched := by
  cases w <;> rfl

/-! ### Updates that keep the bytes of memory -/

@[simp] theorem respond_readByte (r : Response) (a : Nat) : (s.respond r).readByte a = s.readByte a := rfl
@[simp] theorem setMemoryAbort_readByte (va : Word) (code : BitVec 5) (w : Bool) (a : Nat) : (s.setMemoryAbort va code w).readByte a = s.readByte a := rfl
@[simp] theorem logPeriph_readByte (e : PeriphEvent) (a : Nat) : (s.logPeriph e).readByte a = s.readByte a := rfl
@[simp] theorem setTc_readByte (tc : TranslationContext) (a : Nat) : (s.setTc tc).readByte a = s.readByte a := rfl
@[simp] theorem setCp_readByte (cp : ControlRegs) (a : Nat) : (s.setCp cp).readByte a = s.readByte a := rfl
@[simp] theorem setIc_readByte (ic : InterruptController) (a : Nat) : (s.setIc ic).readByte a = s.readByte a := rfl
@[simp] theorem setPc_readByte (pc : Word) (a : Nat) : (s.setPc pc).readByte a = s.readByte a := rfl
@[simp] theorem setRunning_readByte (b : Bool) (a : Nat) : (s.setRunning b).readByte a = s.readByte a := rfl
@[simp] theorem setHalted_readByte (b : Bool) (a : Nat) : (s.setHalted b).readByte a = s.readByte a := rfl
@[simp] theorem setPhase_readByte (p : SchedPhase) (a : Nat) : (s.setPhase p).readByte a = s.readByte a := rfl
@[simp] theorem notify_readByte (n : Notice) (a : Nat) : (s.notify n).readByte a = s.readByte a := rfl
@[simp] theorem markFetched_readByte (b : Bool) (a : Nat) : (s.markFetched b).readByte a = s.readByte a := rfl
@[simp] theorem endBatch_readByte (a : Nat) : (endBatch s).readByte a = s.readByte a := rfl
@[simp] theorem endStep_readByte (a : Nat) : (endStep s).readByte a = s.readByte a := rfl
@[simp] theorem setFatal_readByte (r : FatalReason) (info : Word) (a : Nat) : (s.setFatal r info).readByte a = s.readByte a := by
  unfold State.setFatal; split <;> rfl

end Sys2Proof.Machine
end

