-- ==== Sys2Proof/Laws/Memory.lean ====
section
/-! SUPPORT. Sparse maps and RAM: a read after a write, what a write leaves alone, and that every write keeps the
canonical form. -/

namespace Sys2Proof.Machine

/-! ### Sparse maps -/

theorem sparseSet_cons {α : Type} [DecidableEq α] (j k : Nat) (u v d : α) (t : List (Nat × α)) :
    sparseSet ((j, u) :: t) k v d
      = if k < j then (if v = d then (j, u) :: t else (k, v) :: (j, u) :: t)
        else if k = j then (if v = d then t else (k, v) :: t)
        else (j, u) :: sparseSet t k v d := rfl

/-- A write leaves every other key alone, whatever the list. -/
theorem sparseGet_set_other {α : Type} [DecidableEq α] (m : List (Nat × α)) {k j : Nat} (h : j ≠ k) (v d e : α) :
    sparseGet (sparseSet m k v d) j e = sparseGet m j e := by
  induction m with
  | nil => by_cases hv : v = d <;> simp [sparseSet, sparseGet, hv, h.symm]
  | cons c t ih =>
    obtain ⟨i, u⟩ := c
    rw [sparseSet_cons]
    by_cases hlt : k < i
    · by_cases hv : v = d
      · simp [hlt, hv]
      · simp [hlt, hv, sparseGet, h.symm]
    · by_cases he : k = i
      · subst he
        by_cases hv : v = d <;> simp [hv, sparseGet, h.symm]
      · simp only [hlt, he, if_false, sparseGet, ih]

/-- The canonical form bounds the keys from below. -/
theorem sparseWf_above {α : Type} [DecidableEq α] {dflt : Nat → α} {m : List (Nat × α)} {lo k : Nat}
    (h : sparseWf dflt (some lo) m = true) (hk : k ≤ lo) (d : α) : sparseGet m k d = d := by
  induction m generalizing lo with
  | nil => rfl
  | cons c t ih =>
    obtain ⟨i, u⟩ := c
    simp only [sparseWf, Bool.and_eq_true, Option.all_some, decide_eq_true_eq] at h
    rw [sparseGet, if_neg (by omega)]
    exact ih h.2 (by omega)

/-- A read after a write to the same key. -/
theorem sparseGet_set_same {α : Type} [DecidableEq α] {dflt : Nat → α} {m : List (Nat × α)} {lo : Option Nat}
    (h : sparseWf dflt lo m = true) (k : Nat) (v d : α) : sparseGet (sparseSet m k v d) k d = v := by
  induction m generalizing lo with
  | nil => by_cases hv : v = d <;> simp [sparseSet, sparseGet, hv]
  | cons c t ih =>
    obtain ⟨i, u⟩ := c
    simp only [sparseWf, Bool.and_eq_true] at h
    rw [sparseSet_cons]
    by_cases hlt : k < i
    · by_cases hv : v = d
      · simp only [hlt, hv, if_true, sparseGet]
        rw [if_neg (by omega)]
        exact sparseWf_above h.2 (by omega) d
      · simp [hlt, hv, sparseGet]
    · by_cases he : k = i
      · subst he
        by_cases hv : v = d
        · simpa [hv] using sparseWf_above h.2 (le_refl k) d
        · simp [hv, sparseGet]
      · rw [if_neg hlt, if_neg he, sparseGet, if_neg (by omega)]
        exact ih h.2

/-- A looser bound keeps the canonical form. -/
theorem sparseWf_mono {α : Type} [DecidableEq α] {dflt : Nat → α} {m : List (Nat × α)} {lo : Option Nat} {i : Nat}
    (h : sparseWf dflt (some i) m = true) (hlo : lo.all (· < i) = true) : sparseWf dflt lo m = true := by
  cases m with
  | nil => rfl
  | cons c t =>
    obtain ⟨j, u⟩ := c
    simp only [sparseWf, Bool.and_eq_true, Option.all_some, decide_eq_true_eq] at h ⊢
    refine ⟨⟨?_, h.1.2⟩, h.2⟩
    cases lo with
    | none => rfl
    | some l => simp only [Option.all_some, decide_eq_true_eq] at hlo ⊢; omega

/-- A write keeps the canonical form. -/
theorem sparseSet_wf {α : Type} [DecidableEq α] {dflt : Nat → α} {m : List (Nat × α)} {lo : Option Nat}
    (h : sparseWf dflt lo m = true) {k : Nat} (hk : lo.all (· < k) = true) (v : α) :
    sparseWf dflt lo (sparseSet m k v (dflt k)) = true := by
  induction m generalizing lo with
  | nil => by_cases hv : v = dflt k <;> simp [sparseSet, sparseWf, hv, hk]
  | cons c t ih =>
    obtain ⟨i, u⟩ := c
    have hc := h
    simp only [sparseWf, Bool.and_eq_true] at h
    rw [sparseSet_cons]
    by_cases hlt : k < i
    · by_cases hv : v = dflt k
      · simpa [hlt, hv] using hc
      · simp only [hlt, hv, if_true, if_false, sparseWf, Bool.and_eq_true, Option.all_some, decide_eq_true_eq]
        simp [hk, h.2]
        simpa using h.1.2
    · by_cases he : k = i
      · subst he
        by_cases hv : v = dflt k
        · simpa [hv] using sparseWf_mono h.2 hk
        · simp [hv, sparseWf, hk, h.2]
      · rw [if_neg hlt, if_neg he]
        simp only [sparseWf, Bool.and_eq_true]
        exact ⟨h.1, ih h.2 (by simp; omega)⟩

/-- A write lists no key but the old ones and its own. -/
theorem sparseSet_keys {α : Type} [DecidableEq α] (m : List (Nat × α)) (k : Nat) (v d : α) (p : Nat → Bool)
    (hm : m.all (fun c => p c.1) = true) (hk : p k = true) : (sparseSet m k v d).all (fun c => p c.1) = true := by
  induction m with
  | nil => by_cases hv : v = d <;> simp [sparseSet, hv, hk]
  | cons c t ih =>
    obtain ⟨i, u⟩ := c
    rw [List.all_cons, Bool.and_eq_true] at hm
    rw [sparseSet_cons]
    split_ifs <;> simp only [List.all_cons, Bool.and_eq_true, hm, hk, ih hm.2, and_self]

/-! ### Bytes of RAM -/

theorem readByte_writeByte_other (s : State) {a b : Nat} (h : b ≠ a) (v : Byte) :
    (s.writeByte a v).readByte b = s.readByte b :=
  sparseGet_set_other s.ram h v (ramInit s.cfg a) (ramInit s.cfg b)

theorem readByte_writeByte_same {s : State} (h : Memory.wf s.cfg s.ram = true) (a : Nat) (v : Byte) :
    (s.writeByte a v).readByte a = v :=
  sparseGet_set_same h a v (ramInit s.cfg a)

/-- Every byte store keeps the canonical form. -/
theorem writeByte_wf {s : State} (h : Memory.wf s.cfg s.ram = true) (a : Nat) (v : Byte) :
    Memory.wf s.cfg (s.writeByte a v).ram = true :=
  sparseSet_wf (dflt := ramInit s.cfg) h rfl v

/-- Every RAM write keeps the canonical form. -/
theorem memWrite_wf {s : State} (h : Memory.wf s.cfg s.ram = true) (pa : Word) (w : Width) (v : Word) :
    Memory.wf s.cfg (memWrite s pa w v).ram = true := by
  cases w <;> simp only [memWrite]
  · exact writeByte_wf h _ _
  · exact writeByte_wf (s := s.writeByte _ _) (writeByte_wf h _ _) _ _
  · exact writeByte_wf (s := ((s.writeByte _ _).writeByte _ _).writeByte _ _)
      (writeByte_wf (s := (s.writeByte _ _).writeByte _ _)
        (writeByte_wf (s := s.writeByte _ _) (writeByte_wf h _ _) _ _) _ _) _ _

/-- A run of host writes keeps the canonical form. -/
theorem writeBytes_wf {s : State} (h : Memory.wf s.cfg s.ram = true) (addr : Word) (bytes : List Byte) :
    Memory.wf (writeBytes addr bytes s).cfg (writeBytes addr bytes s).ram = true := by
  induction bytes generalizing s addr with
  | nil => exact h
  | cons b bs ih => exact ih (s := s.writeByte addr.toNat b) (writeByte_wf h _ _) _

/-- Memory at reset has the canonical form. -/
theorem reset_wf (c : Config) : Memory.wf (State.resetWith c).cfg (State.resetWith c).ram = true := rfl

/-- A RAM write leaves every byte outside its own alone. -/
theorem readByte_memWrite_other (s : State) (pa : Word) (w : Width) (v : Word) {b : Nat}
    (h : b < pa.toNat ∨ pa.toNat + widthBytes w ≤ b) : (memWrite s pa w v).readByte b = s.readByte b := by
  cases w <;> simp only [memWrite, widthBytes] at h ⊢
  · exact readByte_writeByte_other _ (by omega) _
  · rw [readByte_writeByte_other _ (by omega), readByte_writeByte_other _ (by omega)]
  · rw [readByte_writeByte_other _ (by omega), readByte_writeByte_other _ (by omega),
      readByte_writeByte_other _ (by omega), readByte_writeByte_other _ (by omega)]

/-- A RAM write puts byte i of the value at address pa + i. -/
theorem readByte_memWrite_same {s : State} (hm : Memory.wf s.cfg s.ram = true) (pa : Word) (w : Width) (v : Word) {i : Nat}
    (hi : i < widthBytes w) : (memWrite s pa w v).readByte (pa.toNat + i) = byteOf v i := by
  have h1 := writeByte_wf hm pa.toNat (byteOf v 0)
  cases w with
  | byte =>
    obtain rfl : i = 0 := by simp [widthBytes] at hi; omega
    exact readByte_writeByte_same hm _ _
  | half =>
    simp only [widthBytes] at hi
    simp only [memWrite]
    obtain rfl | rfl : i = 0 ∨ i = 1 := by omega
    · rw [readByte_writeByte_other _ (by omega)]; exact readByte_writeByte_same hm _ _
    · exact readByte_writeByte_same (s := s.writeByte _ _) h1 _ _
  | word =>
    simp only [widthBytes] at hi
    have h2 := writeByte_wf (s := s.writeByte _ _) h1 (pa.toNat + 1) (byteOf v 1)
    have h3 := writeByte_wf (s := (s.writeByte _ _).writeByte _ _) h2 (pa.toNat + 2) (byteOf v 2)
    simp only [memWrite]
    obtain rfl | rfl | rfl | rfl : i = 0 ∨ i = 1 ∨ i = 2 ∨ i = 3 := by omega
    · rw [readByte_writeByte_other _ (by omega), readByte_writeByte_other _ (by omega),
        readByte_writeByte_other _ (by omega)]
      exact readByte_writeByte_same hm _ _
    · rw [readByte_writeByte_other _ (by omega), readByte_writeByte_other _ (by omega)]
      exact readByte_writeByte_same (s := s.writeByte _ _) h1 _ _
    · rw [readByte_writeByte_other _ (by omega)]
      exact readByte_writeByte_same (s := (s.writeByte _ _).writeByte _ _) h2 _ _
    · exact readByte_writeByte_same (s := ((s.writeByte _ _).writeByte _ _).writeByte _ _) h3 _ _

/-- The number an appended bit vector stands for. -/
theorem toNat_append_eq {m n : Nat} (x : BitVec m) (y : BitVec n) : (x ++ y).toNat = x.toNat * 2 ^ n + y.toNat := by
  rw [BitVec.toNat_append, ← Nat.shiftLeft_add_eq_or_of_lt y.isLt, Nat.shiftLeft_eq]

/-- `MemRead` is the little-endian number of its bytes (20_memory.md R38). -/
theorem memRead_toNat (s : State) (pa : Word) (w : Width) :
    (memRead s pa w).toNat = ∑ i ∈ Finset.range (widthBytes w), (s.readByte (pa.toNat + i)).toNat * 256 ^ i := by
  have h0 := (s.readByte pa.toNat).isLt
  have h1 := (s.readByte (pa.toNat + 1)).isLt
  cases w with
  | byte =>
    simp only [memRead, widthBytes, Finset.sum_range_succ, Finset.sum_range_zero, BitVec.toNat_setWidth]
    norm_num
    omega
  | half =>
    simp only [memRead, ofBytes2, widthBytes, Finset.sum_range_succ, Finset.sum_range_zero, BitVec.toNat_setWidth,
      toNat_append_eq]
    norm_num
    omega
  | word =>
    simp only [memRead, ofBytes4, widthBytes, Finset.sum_range_succ, Finset.sum_range_zero, toNat_append_eq]
    norm_num
    omega

/-- A word is made of its four bytes. -/
theorem ofBytes4_byteOf (v : Word) : ofBytes4 (byteOf v 0) (byteOf v 1) (byteOf v 2) (byteOf v 3) = v := by
  refine BitVec.eq_of_toNat_eq ?_
  have hv := v.isLt
  simp only [ofBytes4, toNat_append_eq, byteOf, BitVec.extractLsb'_toNat, Nat.shiftRight_eq_div_pow]
  norm_num
  omega

/-- A word of RAM holds what a word write put there (20_memory.md R39). -/
theorem memRead_memWrite_same {s : State} (hm : Memory.wf s.cfg s.ram = true) (pa v : Word) :
    memRead (memWrite s pa .word v) pa .word = v := by
  have h := fun i hi => readByte_memWrite_same hm pa .word v (i := i) hi
  have h0 := h 0 (by decide)
  simp only [Nat.add_zero] at h0
  simp only [memRead, h0, h 1 (by decide), h 2 (by decide), h 3 (by decide), ofBytes4_byteOf]

/-- Reading memory depends on the bytes only. -/
theorem memRead_congr {s t : State} (h : ∀ a, s.readByte a = t.readByte a) (pa : Word) (w : Width) :
    memRead s pa w = memRead t pa w := by
  cases w <;> simp [memRead, h]

end Sys2Proof.Machine
end

