-- ==== Sys2Proof/Laws/Exec.lean ====
section
/-! SUPPORT. What each shared operation can do, said once: a command is its body under the Halted check; a walk is done,
faults or is fatal; an access ends as its walk, its route and its alignment say; what the operations leave alone. -/

namespace Sys2Proof.Machine

/-! ### A command is its body -/

/-- What a command does while no Fatal is kept. -/
def bodyOf : Instr → State → Ended Word
  | .xlatUR a => translate a false false false
  | .xlatUW a => translate a true false false
  | .xlatPR a => translate a false true false
  | .xlatPW a => translate a true true false
  | .ldb p a => access a .byte p .load
  | .ldh p a => access a .half p .load
  | .ldw p a => access a .word p .load
  | .fetch p a => access a .word p .fetch
  | .stb p a d => access a .byte p (.store d)
  | .sth p a d => access a .half p (.store d)
  | .stw p a d => access a .word p (.store d)
  | .storeu a d => storeUnaligned a d
  | .cprSctlr => fun s => .ok s.cp.sctlr s
  | .cprTtbr0 => fun s => .ok s.cp.ttbr0 s
  | .cprTtbr1 => fun s => .ok s.cp.ttbr1 s
  | .cprTtbcr => fun s => .ok s.cp.ttbcr s
  | .cprDacr => fun s => .ok s.cp.dacr s
  | .cprDfsr => fun s => .ok s.cp.dfsr s
  | .cprIfsr => fun s => .ok s.cp.ifsr s
  | .cprDfar => fun s => .ok s.cp.dfar s
  | .cprIfar => fun s => .ok s.cp.ifar s
  | .cprContextidr => fun s => .ok s.cp.contextidr s
  | .cpwSctlr v => writeSctlr v
  | .cpwTtbr0 v => writeTtbr0 v
  | .cpwTtbr1 v => writeTtbr1 v
  | .cpwTtbcr v => writeTtbcr v
  | .cpwDacr v => writeDacr v
  | .cpwDfsr v => fun s => .ok 0 (s.setCp { s.cp with dfsr := v })
  | .cpwIfsr v => fun s => .ok 0 (s.setCp { s.cp with ifsr := v })
  | .cpwDfar v => fun s => .ok 0 (s.setCp { s.cp with dfar := v })
  | .cpwIfar v => fun s => .ok 0 (s.setCp { s.cp with ifar := v })
  | .cpwContextidr v => writeContextidr v
  | .cprOther key => readOther key
  | .cpwOther key v => writeOther key v
  | .irqraise irq => raiseIrq irq
  | .irqpend => fun s => .ok (bit (irqPending s.ic)) s
  | .irqaccept => acceptIrq
  | .irqeoi irq => completeIrq irq
  | .irqenable e => fun s => .ok 0 (s.setIc { s.ic with enabled := e })

theorem exec_eq_command (i : Instr) (s : State) : exec i s = command (bodyOf i) s := by cases i <;> rfl

theorem command_live {s : State} (h : s.fatal = none) (body : State → Ended Word) :
    command body s = .next (conclude (body s)) := by simp [command, h]

theorem command_halted {s : State} (h : s.fatal ≠ none) (body : State → Ended Word) :
    command body s = .next (s.respond (.fatal .halted)) := by
  unfold command
  split <;> simp_all

theorem exec_live {s : State} (h : s.fatal = none) (i : Instr) : exec i s = .next (conclude (bodyOf i s)) := by
  rw [exec_eq_command, command_live h]

theorem exec_halted {s : State} (h : s.fatal ≠ none) (i : Instr) : exec i s = .next (s.respond (.fatal .halted)) := by
  rw [exec_eq_command, command_halted h]

/-- Every command answers a next state. -/
theorem exec_next (i : Instr) (s : State) : ∃ t, exec i s = .next t := by
  by_cases h : s.fatal = none
  · exact ⟨_, exec_live h i⟩
  · exact ⟨_, exec_halted h i⟩

theorem execIllegal_live {s : State} (h : s.fatal = none) (cmd : Word) :
    execIllegal cmd s = .next ((s.setFatal .illegalCommand cmd).respond (.fatal .illegalCommand)) := command_live h _

/-- Every illegal word answers a next state. -/
theorem execIllegal_next (cmd : Word) (s : State) : ∃ t, execIllegal cmd s = .next t := by
  by_cases h : s.fatal = none
  · exact ⟨_, execIllegal_live h cmd⟩
  · exact ⟨_, command_halted h _⟩

/-! ### Ended -/

/-- The state a part of a command leaves. -/
def Ended.state {α : Type} : Ended α → State
  | .ok _ s => s
  | .abort _ s => s
  | .fatal _ _ s => s

@[simp] theorem andThen_ok {α β : Type} (v : α) (s : State) (k : α → State → Ended β) : (Ended.ok v s).andThen k = k v s := rfl
@[simp] theorem andThen_abort {α β : Type} (f : Abort) (s : State) (k : α → State → Ended β) :
    (Ended.abort f s).andThen k = .abort f s := rfl
@[simp] theorem andThen_fatal {α β : Type} (r : FatalReason) (i : Word) (s : State) (k : α → State → Ended β) :
    (Ended.fatal r i s).andThen k = .fatal r i s := rfl

@[simp] theorem conclude_ok (v : Word) (s : State) : conclude (.ok v s) = s.respond (.ok v) := rfl
@[simp] theorem conclude_abort (f : Abort) (s : State) : conclude (.abort f s) = s.respond (.abort f) := rfl
@[simp] theorem conclude_fatal (r : FatalReason) (i : Word) (s : State) :
    conclude (.fatal r i s) = (s.setFatal r i).respond (.fatal r) := rfl

theorem setFatal_none {s : State} (h : s.fatal = none) (r : FatalReason) (i : Word) :
    s.setFatal r i = { s with fatal := some ⟨r, i⟩ } := by simp [State.setFatal, h]

/-! ### Domain rights -/

/-- Domain d's right of a DACR value (41_cp15.md R104). -/
theorem decodeDacr_get (v : Word) (d : Fin 16) : (decodeDacr v).get d = decodeDomain (v.extractLsb' (2 * d.val) 2) := by
  simp only [decodeDacr, Vector.get, Vector.toArray_ofFn, Array.getElem_ofFn]
  rfl

/-! ### Aborts -/

theorem setMemoryAbort_eq_recorded (s : State) (va : Word) (code : BitVec 5) (w : Bool) :
    s.setMemoryAbort va code w = recorded s va code w := rfl

theorem takeAbort_eq {α : Type} (va : Word) (st : FaultStatus) (w f : Bool) (s : State) :
    (takeAbort va st w f s : Ended α) = .abort ⟨st, w, f⟩ (recorded s va (faultCode st) w) := rfl

theorem takeAlignment_eq {α : Type} (va : Word) (w f : Bool) (s : State) :
    (takeAlignment va w f s : Ended α)
      = .abort ⟨.alignment, w, f⟩ (if s.cfg.alignRecords = true then recorded s va (faultCode .alignment) w else s) := by
  unfold takeAlignment
  split <;> simp_all [takeAbort_eq]

/-! ### The walk -/

theorem walk_off {s : State} (h : s.tc.enabled = false) (va : Word) (w p : Bool) : walk s va w p = .done va := by simp [walk, h]

theorem walk_on {s : State} (h : s.tc.enabled = true) (va : Word) (w p : Bool) : walk s va w p = walkTable s va w p := by
  simp [walk, h]

theorem translate_done {s : State} {va pa : Word} {w p : Bool} (h : walk s va w p = .done pa) (f : Bool) :
    translate va w p f s = .ok pa s := by simp [translate, h]

theorem translate_fault {s : State} {va : Word} {w p : Bool} {st : FaultStatus} (h : walk s va w p = .fault st) (f : Bool) :
    translate va w p f s = .abort ⟨st, w, f⟩ (recorded s va (faultCode st) w) := by simp [translate, h, takeAbort_eq]

theorem translate_fatal {s : State} {va : Word} {w p : Bool} {r : FatalReason} {i : Word} (h : walk s va w p = .fatal r i)
    (f : Bool) : translate va w p f s = .fatal r i s := by simp [translate, h]

/-- The walk reads the configuration, the TranslationContext and RAM only. -/
theorem walk_congr {s t : State} (hc : s.cfg = t.cfg) (ht : s.tc = t.tc) (hr : s.ram = t.ram) (va : Word) (w p : Bool) :
    walk s va w p = walk t va w p := by
  have hd : ∀ addr, descRead s addr = descRead t addr := fun addr => by
    simp only [descRead, hc, memRead_congr (s := s) (t := t) (fun a => by simp [State.readByte, hc, hr])]
  simp only [walk, walkTable, walkPage, ht, hd]

/-! ### The end of a walk at a mapping -/

theorem mapped_noAccess (ap2 : Bool) (ap10 : BitVec 2) (l : Level) (w p : Bool) (va pa : Word) :
    mapped .noAccess ap2 ap10 l w p va pa = .fault (domainFault l) := rfl

theorem mapped_reserved (ap2 : Bool) (ap10 : BitVec 2) (l : Level) (w p : Bool) (va pa : Word) :
    mapped .reserved ap2 ap10 l w p va pa = .fault (domainFault l) := rfl

theorem mapped_manager (ap2 : Bool) (ap10 : BitVec 2) (l : Level) (w p : Bool) (va pa : Word) :
    mapped .manager ap2 ap10 l w p va pa = .done pa := rfl

theorem mapped_client (ap2 : Bool) (ap10 : BitVec 2) (l : Level) (w p : Bool) (va pa : Word) :
    mapped .client ap2 ap10 l w p va pa
      = if ap2 = true ∧ ap10 = 0 then .fatal .reservedAP va
        else if permitted ap2 ap10 w p = true then .done pa
        else .fault (permFault l) := by
  simp only [mapped, checkAccess, Bool.and_eq_true, beq_iff_eq]
  split_ifs <;> rfl

/-! ### Commands of one shape -/

theorem exec_xlat {s : State} (hl : s.live) (p w : Bool) (a : Word) :
    exec (xlatForm p w a) s = .next (conclude (translate a w p false s)) := by
  rw [exec_live hl]
  cases p <;> cases w <;> rfl

theorem exec_load {s : State} (hl : s.live) (w : Width) (p : Bool) (a : Word) :
    exec (loadForm w p a) s = .next (conclude (access a w p .load s)) := by
  rw [exec_live hl]
  cases w <;> rfl

theorem exec_store {s : State} (hl : s.live) (w : Width) (p : Bool) (a d : Word) :
    exec (storeForm w p a d) s = .next (conclude (access a w p (.store d) s)) := by
  rw [exec_live hl]
  cases w <;> rfl

theorem exec_fetch {s : State} (hl : s.live) (p : Bool) (a : Word) :
    exec (.fetch p a) s = .next (conclude (access a .word p .fetch s)) := exec_live hl (.fetch p a)

/-! ### Accesses -/

theorem access_done {s : State} {va pa : Word} {priv : Bool} (k : AccessKind) (h : walk s va k.isWrite priv = .done pa)
    (w : Width) : access va w priv k s = accessAt va w k pa s := by simp [access, translate_done h]

theorem access_fault {s : State} {va : Word} {priv : Bool} (k : AccessKind) {st : FaultStatus}
    (h : walk s va k.isWrite priv = .fault st) (w : Width) :
    access va w priv k s = .abort ⟨st, k.isWrite, k.isFetch⟩ (recorded s va (faultCode st) k.isWrite) := by
  simp [access, translate_fault h]

theorem access_fatal {s : State} {va : Word} {priv : Bool} (k : AccessKind) {r : FatalReason} {i : Word}
    (h : walk s va k.isWrite priv = .fatal r i) (w : Width) : access va w priv k s = .fatal r i s := by
  simp [access, translate_fatal h]

theorem alignedFor_iff (w : Width) (pa : Word) : alignedFor w pa = true ↔ pa.toNat % widthBytes w = 0 := by simp [alignedFor]

/-- A read access: a load or a fetch. -/
def AccessKind.reads : AccessKind → Bool
  | .store _ => false
  | .load | .fetch => true

theorem accessAt_none {s : State} {pa : Word} (h : route s.cfg pa = .none) (va : Word) (w : Width) (k : AccessKind) :
    accessAt va w k pa s = .fatal .unmappedAddress pa s := by simp [accessAt, h]

theorem accessAt_ram_read {s : State} {pa : Word} {w : Width} {k : AccessKind} (h : route s.cfg pa = .ram)
    (ha : pa.toNat % widthBytes w = 0) (hk : k.reads = true) (va : Word) :
    accessAt va w k pa s = .ok (memRead s pa w) s := by
  cases k <;> simp_all [accessAt, alignedFor, AccessKind.reads]

theorem accessAt_ram_store {s : State} {pa : Word} {w : Width} (h : route s.cfg pa = .ram)
    (ha : pa.toNat % widthBytes w = 0) (va v : Word) : accessAt va w (.store v) pa s = .ok 0 (memWrite s pa w v) := by
  simp [accessAt, h, alignedFor, ha]

theorem accessAt_misaligned {s : State} {pa : Word} {w : Width} (h : route s.cfg pa = .ram)
    (ha : pa.toNat % widthBytes w ≠ 0) (va : Word) (k : AccessKind) :
    accessAt va w k pa s = takeAlignment va k.isWrite k.isFetch s := by
  simp [accessAt, h, alignedFor, ha]

theorem accessAt_periph_read {s : State} {pa off : Word} {id : Nat} (h : route s.cfg pa = .periph id off) {k : AccessKind}
    (hk : k.reads = true) (va : Word) (w : Width) : accessAt va w k pa s = periphRead id off w s := by
  cases k <;> simp_all [accessAt, AccessKind.reads]

theorem accessAt_periph_store {s : State} {pa off : Word} {id : Nat} (h : route s.cfg pa = .periph id off) (va v : Word)
    (w : Width) : accessAt va w (.store v) pa s = periphWrite id off w v s := by simp [accessAt, h]

/-! ### Frames of the shared operations -/

/-- What no translation and no access touches. -/
structure BusFrame (s t : State) : Prop where
  cfg : t.cfg = s.cfg
  tc : t.tc = s.tc
  ic : t.ic = s.ic
  fatal : t.fatal = s.fatal
  response : t.response = s.response
  client : SameClient s t
  cp : SameButFaultRegisters s.cp t.cp

theorem sameClient_refl (s : State) : SameClient s s := ⟨rfl, rfl, rfl, rfl, rfl, rfl, rfl⟩

theorem sameClient_trans {s t u : State} (h : SameClient s t) (g : SameClient t u) : SameClient s u := by
  obtain ⟨a, b, c, d, e, f, i⟩ := h
  obtain ⟨a', b', c', d', e', f', i'⟩ := g
  exact ⟨a.trans a', b.trans b', c.trans c', d.trans d', e.trans e', f.trans f', i.trans i'⟩

theorem BusFrame.refl (s : State) : BusFrame s s := ⟨rfl, rfl, rfl, rfl, rfl, sameClient_refl s, rfl⟩

theorem BusFrame.trans {s t u : State} (h : BusFrame s t) (g : BusFrame t u) : BusFrame s u where
  cfg := g.cfg.trans h.cfg
  tc := g.tc.trans h.tc
  ic := g.ic.trans h.ic
  fatal := g.fatal.trans h.fatal
  response := g.response.trans h.response
  client := sameClient_trans h.client g.client
  cp := by
    have h1 := h.cp
    have h2 := g.cp
    unfold SameButFaultRegisters at *
    rw [h1] at h2
    simpa using h2

theorem recorded_frame (s : State) (va : Word) (code : BitVec 5) (w : Bool) : BusFrame s (recorded s va code w) :=
  ⟨rfl, rfl, rfl, rfl, rfl, ⟨rfl, rfl, rfl, rfl, rfl, rfl, rfl⟩, rfl⟩

theorem memWrite_frame (s : State) (pa : Word) (w : Width) (v : Word) : BusFrame s (memWrite s pa w v) := by
  cases w <;> exact ⟨rfl, rfl, rfl, rfl, rfl, ⟨rfl, rfl, rfl, rfl, rfl, rfl, rfl⟩, rfl⟩

/-- Everything `translate` can do (40_translation.md R91). -/
theorem translate_cases (va : Word) (w p f : Bool) (s : State) :
    (∃ pa, walk s va w p = .done pa ∧ translate va w p f s = .ok pa s)
      ∨ (∃ st, walk s va w p = .fault st ∧ translate va w p f s = .abort ⟨st, w, f⟩ (recorded s va (faultCode st) w))
      ∨ ∃ r i, walk s va w p = .fatal r i ∧ translate va w p f s = .fatal r i s := by
  rcases h : walk s va w p with pa | st | ⟨r, i⟩
  · exact .inl ⟨pa, rfl, translate_done h f⟩
  · exact .inr (.inl ⟨st, rfl, translate_fault h f⟩)
  · exact .inr (.inr ⟨r, i, rfl, translate_fatal h f⟩)

/-- Everything an access at its physical address can do (43_bus.md R118, R119). -/
theorem accessAt_cases (va : Word) (w : Width) (k : AccessKind) (pa : Word) (s : State) :
    (route s.cfg pa = .none ∧ accessAt va w k pa s = .fatal .unmappedAddress pa s)
      ∨ (∃ id off, route s.cfg pa = .periph id off ∧
        ((k.reads = true ∧ accessAt va w k pa s = periphRead id off w s)
          ∨ ∃ v, k = .store v ∧ accessAt va w k pa s = periphWrite id off w v s))
      ∨ (route s.cfg pa = .ram ∧ pa.toNat % widthBytes w = 0 ∧
        ((k.reads = true ∧ accessAt va w k pa s = .ok (memRead s pa w) s)
          ∨ ∃ v, k = .store v ∧ accessAt va w k pa s = .ok 0 (memWrite s pa w v)))
      ∨ (route s.cfg pa = .ram ∧ pa.toNat % widthBytes w ≠ 0 ∧
        accessAt va w k pa s = .abort ⟨.alignment, k.isWrite, k.isFetch⟩
          (if s.cfg.alignRecords = true then recorded s va (faultCode .alignment) k.isWrite else s)) := by
  rcases h : route s.cfg pa with _ | ⟨id, off⟩ | _
  · by_cases ha : pa.toNat % widthBytes w = 0
    · refine .inr (.inr (.inl ⟨rfl, ha, ?_⟩))
      cases k with
      | store v => exact .inr ⟨v, rfl, accessAt_ram_store h ha va v⟩
      | load => exact .inl ⟨rfl, accessAt_ram_read h ha rfl va⟩
      | fetch => exact .inl ⟨rfl, accessAt_ram_read h ha rfl va⟩
    · exact .inr (.inr (.inr ⟨rfl, ha, by rw [accessAt_misaligned h ha, takeAlignment_eq]⟩))
  · refine .inr (.inl ⟨id, off, rfl, ?_⟩)
    cases k with
    | store v => exact .inr ⟨v, rfl, accessAt_periph_store h va v w⟩
    | load => exact .inl ⟨rfl, accessAt_periph_read h rfl va w⟩
    | fetch => exact .inl ⟨rfl, accessAt_periph_read h rfl va w⟩
  · exact .inl ⟨rfl, accessAt_none h va w k⟩

theorem translate_frame (va : Word) (w p f : Bool) (s : State) : BusFrame s (translate va w p f s).state := by
  obtain ⟨pa, -, h⟩ | ⟨st, -, h⟩ | ⟨r, i, -, h⟩ := translate_cases va w p f s <;> rw [h]
  · exact .refl s
  · exact recorded_frame s _ _ _
  · exact .refl s

theorem accessAt_frame (va : Word) (w : Width) (k : AccessKind) (pa : Word) (s : State) :
    BusFrame s (accessAt va w k pa s).state := by
  obtain ⟨-, h⟩ | ⟨id, off, -, ⟨-, h⟩ | ⟨v, -, h⟩⟩ | ⟨-, -, ⟨-, h⟩ | ⟨v, -, h⟩⟩ | ⟨-, -, h⟩ := accessAt_cases va w k pa s <;> rw [h]
  · exact .refl s
  · exact ⟨rfl, rfl, rfl, rfl, rfl, ⟨rfl, rfl, rfl, rfl, rfl, rfl, rfl⟩, rfl⟩
  · exact ⟨rfl, rfl, rfl, rfl, rfl, ⟨rfl, rfl, rfl, rfl, rfl, rfl, rfl⟩, rfl⟩
  · exact .refl s
  · exact memWrite_frame s pa w v
  · simp only [Ended.state]
    split
    · exact recorded_frame s _ _ _
    · exact .refl s

/-- A property that holds of the parts of a command, one after the other. -/
theorem andThen_state {α β : Type} {P : State → State → Prop}
    (htrans : ∀ s t u, P s t → P t u → P s u) {s : State} {r : Ended α} {k : α → State → Ended β} (hr : P s r.state)
    (hk : ∀ v t, P t (k v t).state) : P s (r.andThen k).state := by
  cases r with
  | ok v t => exact htrans _ _ _ hr (hk v t)
  | abort f t => exact hr
  | fatal r i t => exact hr

theorem access_frame (va : Word) (w : Width) (p : Bool) (k : AccessKind) (s : State) :
    BusFrame s (access va w p k s).state :=
  andThen_state (P := BusFrame) (fun _ _ _ => BusFrame.trans) (translate_frame _ _ _ _ s)
    fun v t => accessAt_frame va w k v t

theorem storePieces_frame (a : Word) (w : Width) (pieces : List (Word × Word)) (s : State) :
    BusFrame s (storePieces a w pieces s).state := by
  induction pieces generalizing s with
  | nil => exact .refl s
  | cons c rest ih =>
    exact andThen_state (P := BusFrame) (fun _ _ _ => BusFrame.trans) (access_frame _ _ _ _ s) fun _ t => ih t

theorem storeUnaligned_frame (a d : Word) (s : State) : BusFrame s (storeUnaligned a d s).state := by
  unfold storeUnaligned
  split <;> exact storePieces_frame _ _ _ s

/-! ### What every command leaves alone -/

/-- A command changes neither the configuration nor the ports' inputs, the Scheduler and the host's side. -/
structure ClientFrame (s t : State) : Prop where
  cfg : t.cfg = s.cfg
  client : SameClient s t

theorem BusFrame.toClientFrame {s t : State} (h : BusFrame s t) : ClientFrame s t := ⟨h.cfg, h.client⟩

theorem ClientFrame.of_eq {s t : State} (h0 : t.cfg = s.cfg) (h1 : t.inbox = s.inbox) (h2 : t.sched = s.sched)
    (h3 : t.phase = s.phase) (h4 : t.batchLeft = s.batchLeft) (h5 : t.notices = s.notices) (h6 : t.saved = s.saved)
    (h7 : t.fetched = s.fetched) : ClientFrame s t :=
  ⟨h0, h1.symm, h2.symm, h3.symm, h4.symm, h5.symm, h6.symm, h7.symm⟩

/-- What a control-register or interrupt command leaves alone, by the cases of its body. -/
theorem readOther_state (key : Key) (s : State) : (readOther key s).state = s := by
  unfold readOther
  split <;> (try split) <;> (try split) <;> rfl

theorem writeOther_frame (key : Key) (v : Word) (s : State) : ClientFrame s (writeOther key v s).state := by
  unfold writeOther
  split <;> (try split) <;> (try split) <;> exact .of_eq rfl rfl rfl rfl rfl rfl rfl rfl

theorem raiseIrq_frame (irq : Irq) (s : State) : ClientFrame s (raiseIrq irq s).state := by
  unfold raiseIrq
  split <;> (try split) <;> (try split) <;> exact .of_eq rfl rfl rfl rfl rfl rfl rfl rfl

theorem acceptIrq_frame (s : State) : ClientFrame s (acceptIrq s).state := by
  unfold acceptIrq
  split <;> (try split) <;> exact .of_eq rfl rfl rfl rfl rfl rfl rfl rfl

theorem completeIrq_frame (irq : Irq) (s : State) : ClientFrame s (completeIrq irq s).state := by
  unfold completeIrq
  split <;> (try split) <;> (try split) <;> exact .of_eq rfl rfl rfl rfl rfl rfl rfl rfl

/-- The body of every command keeps the configuration and the client. -/
theorem bodyOf_frame (i : Instr) (s : State) : ClientFrame s (bodyOf i s).state := by
  cases i <;> simp only [bodyOf]
  case xlatUR | xlatUW | xlatPR | xlatPW => exact (translate_frame _ _ _ _ s).toClientFrame
  case ldb | ldh | ldw | fetch | stb | sth | stw => exact (access_frame _ _ _ _ s).toClientFrame
  case storeu => exact (storeUnaligned_frame _ _ s).toClientFrame
  case cprOther key => rw [readOther_state]; exact .of_eq rfl rfl rfl rfl rfl rfl rfl rfl
  case cpwOther => exact writeOther_frame _ _ s
  case irqraise => exact raiseIrq_frame _ s
  case irqaccept => exact acceptIrq_frame s
  case irqeoi => exact completeIrq_frame _ s
  case cpwSctlr v =>
    by_cases h : v.getLsbD 24 = true
    · rw [writeSctlr, if_pos h]; exact .of_eq rfl rfl rfl rfl rfl rfl rfl rfl
    · rw [writeSctlr, if_neg h]; exact .of_eq rfl rfl rfl rfl rfl rfl rfl rfl
  case cpwTtbcr v =>
    by_cases h : (splitField v != 0) = true
    · rw [writeTtbcr, if_pos h]; exact .of_eq rfl rfl rfl rfl rfl rfl rfl rfl
    · rw [writeTtbcr, if_neg h]; exact .of_eq rfl rfl rfl rfl rfl rfl rfl rfl
  all_goals
    refine .of_eq ?_ ?_ ?_ ?_ ?_ ?_ ?_ ?_ <;>
      simp [Ended.state, writeTtbr0, writeTtbr1, writeDacr, writeContextidr]

/-- `conclude` changes the response and, for a Fatal, the record of the first Fatal. -/
theorem conclude_frame (r : Ended Word) : ClientFrame r.state (conclude r) := by
  cases r <;> exact .of_eq (by simp [Ended.state]) (by simp [Ended.state]) (by simp [Ended.state]) (by simp [Ended.state])
    (by simp [Ended.state]) (by simp [Ended.state]) (by simp [Ended.state]) (by simp [Ended.state])

/-- Every command keeps the configuration and the client (10_state.md R16). -/
theorem exec_client {i : Instr} {s t : State} (h : exec i s = .next t) : ClientFrame s t := by
  by_cases hf : s.fatal = none
  · rw [exec_live hf] at h
    cases h
    have h1 := bodyOf_frame i s
    have h2 := conclude_frame (bodyOf i s)
    exact ⟨h2.cfg.trans h1.cfg, sameClient_trans h1.client h2.client⟩
  · rw [exec_halted hf] at h
    cases h
    exact .of_eq rfl rfl rfl rfl rfl rfl rfl rfl

end Sys2Proof.Machine
end

