-- ==== Sys2Proof/Laws/PerInstr.lean ====
section
/-! SUPPORT. A law of every command, constructor by constructor: its encoded word is a word of its row of
spec/opcode_table.json. The masks and the matches are written out from the table. -/

namespace Sys2Proof.Laws.EncodesItsRow

/-- The fixed bits of each row of spec/opcode_table.json: mask and match. -/
def row : Instr → Word × Word
  | .xlatUR _ => (0xFFFFFFFF, 0x00000000)
  | .xlatUW _ => (0xFFFFFFFF, 0x00200000)
  | .xlatPR _ => (0xFFFFFFFF, 0x00400000)
  | .xlatPW _ => (0xFFFFFFFF, 0x00600000)
  | .ldb _ _ => (0xFFBFFFFF, 0x10000000)
  | .ldh _ _ => (0xFFBFFFFF, 0x11000000)
  | .ldw _ _ => (0xFFBFFFFF, 0x12000000)
  | .fetch _ _ => (0xFFBFFFFF, 0x12800000)
  | .stb _ _ _ => (0xFFBFFFFF, 0x20000000)
  | .sth _ _ _ => (0xFFBFFFFF, 0x21000000)
  | .stw _ _ _ => (0xFFBFFFFF, 0x22000000)
  | .storeu _ _ => (0xFFFFFFFF, 0x30000000)
  | .cprSctlr => (0xFFFFFFFF, 0x40000400)
  | .cprTtbr0 => (0xFFFFFFFF, 0x40000800)
  | .cprTtbr1 => (0xFFFFFFFF, 0x40000801)
  | .cprTtbcr => (0xFFFFFFFF, 0x40000802)
  | .cprDacr => (0xFFFFFFFF, 0x40000C00)
  | .cprDfsr => (0xFFFFFFFF, 0x40001400)
  | .cprIfsr => (0xFFFFFFFF, 0x40001401)
  | .cprDfar => (0xFFFFFFFF, 0x40001800)
  | .cprIfar => (0xFFFFFFFF, 0x40001802)
  | .cprContextidr => (0xFFFFFFFF, 0x40003401)
  | .cpwSctlr _ => (0xFFFFFFFF, 0x50000400)
  | .cpwTtbr0 _ => (0xFFFFFFFF, 0x50000800)
  | .cpwTtbr1 _ => (0xFFFFFFFF, 0x50000801)
  | .cpwTtbcr _ => (0xFFFFFFFF, 0x50000802)
  | .cpwDacr _ => (0xFFFFFFFF, 0x50000C00)
  | .cpwDfsr _ => (0xFFFFFFFF, 0x50001400)
  | .cpwIfsr _ => (0xFFFFFFFF, 0x50001401)
  | .cpwDfar _ => (0xFFFFFFFF, 0x50001800)
  | .cpwIfar _ => (0xFFFFFFFF, 0x50001802)
  | .cpwContextidr _ => (0xFFFFFFFF, 0x50003401)
  | .cprOther _ => (0xFFFFC000, 0x40000000)
  | .cpwOther _ _ => (0xFFFFC000, 0x50000000)
  | .irqraise _ => (0xFFFF0000, 0x60000000)
  | .irqpend => (0xFFFFFFFF, 0x70000000)
  | .irqaccept => (0xFFFFFFFF, 0x80000000)
  | .irqeoi _ => (0xFFFF0000, 0x90000000)
  | .irqenable _ => (0xFFFFFFFE, 0xA0000000)

/-- The word the encoder writes has the fixed bits of its row. -/
def Statement (i : Instr) : Prop := (encode i).cmd &&& (row i).1 = (row i).2

theorem masked_wordK {op : Word} (h : op = 4 ∨ op = 5) (key : Key) : wordK op key &&& 0xFFFFC000 = op <<< 28 := by
  refine BitVec.eq_of_getElem_eq fun i hi => ?_
  rcases h with rfl | rfl <;> interval_cases i <;> simp [wordK]

theorem masked_wordI {op : Word} (h : op = 6 ∨ op = 9) (irq : Irq) : wordI op irq &&& 0xFFFF0000 = op <<< 28 := by
  refine BitVec.eq_of_getElem_eq fun i hi => ?_
  rcases h with rfl | rfl <;> interval_cases i <;> simp [wordI]

theorem xlatUR (a : Word) : Statement (.xlatUR a) :=
  show (wordT false false) &&& 0xFFFFFFFF = (0x00000000 : Word) by decide

theorem xlatUW (a : Word) : Statement (.xlatUW a) :=
  show (wordT false true) &&& 0xFFFFFFFF = (0x00200000 : Word) by decide

theorem xlatPR (a : Word) : Statement (.xlatPR a) :=
  show (wordT true false) &&& 0xFFFFFFFF = (0x00400000 : Word) by decide

theorem xlatPW (a : Word) : Statement (.xlatPW a) :=
  show (wordT true true) &&& 0xFFFFFFFF = (0x00600000 : Word) by decide

theorem ldb (p : Bool) (a : Word) : Statement (.ldb p a) :=
  show (wordM 1 0 false p) &&& 0xFFBFFFFF = (0x10000000 : Word) by revert p; decide

theorem ldh (p : Bool) (a : Word) : Statement (.ldh p a) :=
  show (wordM 1 1 false p) &&& 0xFFBFFFFF = (0x11000000 : Word) by revert p; decide

theorem ldw (p : Bool) (a : Word) : Statement (.ldw p a) :=
  show (wordM 1 2 false p) &&& 0xFFBFFFFF = (0x12000000 : Word) by revert p; decide

theorem fetch (p : Bool) (a : Word) : Statement (.fetch p a) :=
  show (wordM 1 2 true p) &&& 0xFFBFFFFF = (0x12800000 : Word) by revert p; decide

theorem stb (p : Bool) (a d : Word) : Statement (.stb p a d) :=
  show (wordM 2 0 false p) &&& 0xFFBFFFFF = (0x20000000 : Word) by revert p; decide

theorem sth (p : Bool) (a d : Word) : Statement (.sth p a d) :=
  show (wordM 2 1 false p) &&& 0xFFBFFFFF = (0x21000000 : Word) by revert p; decide

theorem stw (p : Bool) (a d : Word) : Statement (.stw p a d) :=
  show (wordM 2 2 false p) &&& 0xFFBFFFFF = (0x22000000 : Word) by revert p; decide

theorem storeu (a d : Word) : Statement (.storeu a d) :=
  show (0x30000000) &&& 0xFFFFFFFF = (0x30000000 : Word) by decide

theorem cprSctlr : Statement .cprSctlr :=
  show (wordK 4 keySctlr) &&& 0xFFFFFFFF = (0x40000400 : Word) by decide

theorem cprTtbr0 : Statement .cprTtbr0 :=
  show (wordK 4 keyTtbr0) &&& 0xFFFFFFFF = (0x40000800 : Word) by decide

theorem cprTtbr1 : Statement .cprTtbr1 :=
  show (wordK 4 keyTtbr1) &&& 0xFFFFFFFF = (0x40000801 : Word) by decide

theorem cprTtbcr : Statement .cprTtbcr :=
  show (wordK 4 keyTtbcr) &&& 0xFFFFFFFF = (0x40000802 : Word) by decide

theorem cprDacr : Statement .cprDacr :=
  show (wordK 4 keyDacr) &&& 0xFFFFFFFF = (0x40000C00 : Word) by decide

theorem cprDfsr : Statement .cprDfsr :=
  show (wordK 4 keyDfsr) &&& 0xFFFFFFFF = (0x40001400 : Word) by decide

theorem cprIfsr : Statement .cprIfsr :=
  show (wordK 4 keyIfsr) &&& 0xFFFFFFFF = (0x40001401 : Word) by decide

theorem cprDfar : Statement .cprDfar :=
  show (wordK 4 keyDfar) &&& 0xFFFFFFFF = (0x40001800 : Word) by decide

theorem cprIfar : Statement .cprIfar :=
  show (wordK 4 keyIfar) &&& 0xFFFFFFFF = (0x40001802 : Word) by decide

theorem cprContextidr : Statement .cprContextidr :=
  show (wordK 4 keyContextidr) &&& 0xFFFFFFFF = (0x40003401 : Word) by decide

theorem cpwSctlr (v : Word) : Statement (.cpwSctlr v) :=
  show (wordK 5 keySctlr) &&& 0xFFFFFFFF = (0x50000400 : Word) by decide

theorem cpwTtbr0 (v : Word) : Statement (.cpwTtbr0 v) :=
  show (wordK 5 keyTtbr0) &&& 0xFFFFFFFF = (0x50000800 : Word) by decide

theorem cpwTtbr1 (v : Word) : Statement (.cpwTtbr1 v) :=
  show (wordK 5 keyTtbr1) &&& 0xFFFFFFFF = (0x50000801 : Word) by decide

theorem cpwTtbcr (v : Word) : Statement (.cpwTtbcr v) :=
  show (wordK 5 keyTtbcr) &&& 0xFFFFFFFF = (0x50000802 : Word) by decide

theorem cpwDacr (v : Word) : Statement (.cpwDacr v) :=
  show (wordK 5 keyDacr) &&& 0xFFFFFFFF = (0x50000C00 : Word) by decide

theorem cpwDfsr (v : Word) : Statement (.cpwDfsr v) :=
  show (wordK 5 keyDfsr) &&& 0xFFFFFFFF = (0x50001400 : Word) by decide

theorem cpwIfsr (v : Word) : Statement (.cpwIfsr v) :=
  show (wordK 5 keyIfsr) &&& 0xFFFFFFFF = (0x50001401 : Word) by decide

theorem cpwDfar (v : Word) : Statement (.cpwDfar v) :=
  show (wordK 5 keyDfar) &&& 0xFFFFFFFF = (0x50001800 : Word) by decide

theorem cpwIfar (v : Word) : Statement (.cpwIfar v) :=
  show (wordK 5 keyIfar) &&& 0xFFFFFFFF = (0x50001802 : Word) by decide

theorem cpwContextidr (v : Word) : Statement (.cpwContextidr v) :=
  show (wordK 5 keyContextidr) &&& 0xFFFFFFFF = (0x50003401 : Word) by decide

theorem cprOther (key : Key) : Statement (.cprOther key) :=
  show (wordK 4 key) &&& 0xFFFFC000 = (0x40000000 : Word) by exact masked_wordK (.inl rfl) key

theorem cpwOther (key : Key) (v : Word) : Statement (.cpwOther key v) :=
  show (wordK 5 key) &&& 0xFFFFC000 = (0x50000000 : Word) by exact masked_wordK (.inr rfl) key

theorem irqraise (irq : Irq) : Statement (.irqraise irq) :=
  show (wordI 6 irq) &&& 0xFFFF0000 = (0x60000000 : Word) by exact masked_wordI (.inl rfl) irq

theorem irqpend : Statement .irqpend :=
  show (0x70000000) &&& 0xFFFFFFFF = (0x70000000 : Word) by decide

theorem irqaccept : Statement .irqaccept :=
  show (0x80000000) &&& 0xFFFFFFFF = (0x80000000 : Word) by decide

theorem irqeoi (irq : Irq) : Statement (.irqeoi irq) :=
  show (wordI 9 irq) &&& 0xFFFF0000 = (0x90000000 : Word) by exact masked_wordI (.inr rfl) irq

theorem irqenable (e : Bool) : Statement (.irqenable e) :=
  show (0xA0000000 ||| bit e) &&& 0xFFFFFFFE = (0xA0000000 : Word) by revert e; decide

end Sys2Proof.Laws.EncodesItsRow
end

