-- ==== Sys2Proof/Laws/Route.lean ====
section
/-! SUPPORT. Regions and routing (43_bus.md R117): an address of a RAM region, its aligned neighbours included, routes to
RAM, because well-formed regions do not overlap and RAM regions are made of words. -/

namespace Sys2Proof.Machine

/-- Two regions are disjoint exactly if no address is in both (20_memory.md R48). -/
theorem disjoint_iff (r q : Region) : r.disjoint q = true ↔ ∀ a, ¬(r.covers a = true ∧ q.covers a = true) := by
  simp only [Region.disjoint, Region.covers, Bool.or_eq_true, Bool.and_eq_true, decide_eq_true_eq, beq_iff_eq]
  simp only [Region.limit]
  constructor
  · intro h a
    omega
  · intro h
    have hr := h r.base.toNat
    have hq := h q.base.toNat
    omega

/-- A region of a list of disjoint regions that covers an address is the one that routing finds. -/
theorem find_covering {rs : List Region} (hd : regionsDisjoint rs = true) {r : Region} (hr : r ∈ rs) {a : Nat}
    (hc : r.covers a = true) : rs.find? (·.covers a) = some r := by
  induction rs with
  | nil => cases hr
  | cons q rs ih =>
    simp only [regionsDisjoint, Bool.and_eq_true, List.all_eq_true] at hd
    rw [List.find?_cons]
    rcases List.mem_cons.mp hr with rfl | hr
    · rw [hc]
    · have : q.covers a = false := by
        by_contra hn
        exact (disjoint_iff q r).mp (hd.1 r hr) a ⟨by simpa using hn, hc⟩
      rw [this]
      exact ih hd.2 hr

/-- Where an address routes to RAM, a RAM region covers it. -/
theorem route_ram_region {c : Config} {pa : Word} (h : route c pa = .ram) :
    ∃ r ∈ c.regions, r.kind = .ram ∧ r.covers pa.toNat = true := by
  unfold route at h
  split at h
  · cases h
  · rename_i r hf
    refine ⟨r, List.mem_of_find?_eq_some hf, ?_, List.find?_some (p := fun r : Region => r.covers pa.toNat) hf⟩
    split at h
    · assumption
    · cases h

/-- A RAM region's addresses route to RAM. -/
theorem isRam_of_region {c : Config} (hw : c.wf = true) {r : Region} (hr : r ∈ c.regions) (hk : r.kind = .ram) {a : Nat}
    (hc : r.covers a = true) : isRam c a = true := by
  simp only [Config.wf, Bool.and_eq_true, List.all_eq_true] at hw
  have hl := hw.1.1.1.1 r hr
  simp only [Region.wf, Bool.and_eq_true, decide_eq_true_eq] at hl
  have ha : a < 2 ^ 32 := by
    simp only [Region.covers, Bool.and_eq_true, decide_eq_true_eq] at hc
    omega
  have hf := find_covering hw.1.1.1.2 hr (a := a) hc
  simp only [isRam, route, BitVec.toNat_ofNat, Nat.mod_eq_of_lt ha, hf, hk, ha, decide_true, Bool.true_and, beq_self_eq_true]

/-- The bytes of an aligned access to RAM are bytes of RAM (43_bus.md R117: RAM regions are made of words). -/
theorem isRam_of_aligned {c : Config} (hw : c.wf = true) {pa : Word} {w : Width} (h : route c pa = .ram)
    (ha : pa.toNat % widthBytes w = 0) {i : Nat} (hi : i < widthBytes w) : isRam c (pa.toNat + i) = true := by
  obtain ⟨r, hr, hk, hc⟩ := route_ram_region h
  refine isRam_of_region hw hr hk ?_
  simp only [Config.wf, Bool.and_eq_true, List.all_eq_true] at hw
  have hl := hw.1.1.1.1 r hr
  simp only [Region.wf, hk, Bool.and_eq_true, beq_iff_eq] at hl
  simp only [Region.covers, Bool.and_eq_true, decide_eq_true_eq] at hc ⊢
  unfold Region.limit at hc ⊢
  obtain ⟨-, hb, hs⟩ := hl
  cases w <;> simp only [widthBytes] at ha hi <;> omega

/-- A byte of RAM stored keeps RAM in canonical form and listing RAM only. -/
theorem writeByte_ramOk {s : State} (h : ramOk s.cfg s.ram = true) {a : Nat} (ha : isRam s.cfg a = true) (v : Byte) :
    ramOk s.cfg (s.writeByte a v).ram = true := by
  simp only [ramOk, Bool.and_eq_true] at h ⊢
  exact ⟨writeByte_wf h.1 a v, sparseSet_keys s.ram a v _ (isRam s.cfg) h.2 ha⟩

/-- An aligned store to RAM keeps RAM in canonical form and listing RAM only (10_state.md R33). -/
theorem memWrite_ramOk {s : State} (hw : s.cfg.wf = true) (h : ramOk s.cfg s.ram = true) {pa : Word} {w : Width}
    (hr : route s.cfg pa = .ram) (ha : pa.toNat % widthBytes w = 0) (v : Word) : ramOk s.cfg (memWrite s pa w v).ram = true := by
  have hi := fun i hi => isRam_of_aligned hw hr ha (i := i) hi
  cases w <;> simp only [memWrite]
  · exact writeByte_ramOk h (hi 0 (by decide)) _
  · exact writeByte_ramOk (s := s.writeByte _ _) (writeByte_ramOk h (hi 0 (by decide)) _) (hi 1 (by decide)) _
  · exact writeByte_ramOk (s := ((s.writeByte _ _).writeByte _ _).writeByte _ _)
      (writeByte_ramOk (s := (s.writeByte _ _).writeByte _ _)
        (writeByte_ramOk (s := s.writeByte _ _) (writeByte_ramOk h (hi 0 (by decide)) _) (hi 1 (by decide)) _)
        (hi 2 (by decide)) _)
      (hi 3 (by decide)) _

end Sys2Proof.Machine
end

