-- ==== Sys2Proof/Laws/Step.lean ====
section
/-! SUPPORT. One step, said once: with nothing on the inputs the machine waits; else the first thing there takes effect. What
each Scheduler command answers, and what its updates leave alone. -/

namespace Sys2Proof.Machine

/-- The state without the first thing on its inputs. -/
def State.took (s : State) (rest : List PortEvent) : State := { s with inbox := rest }

section took
variable (s : State) (rest : List PortEvent)

@[simp] theorem took_cfg : (s.took rest).cfg = s.cfg := rfl
@[simp] theorem took_tc : (s.took rest).tc = s.tc := rfl
@[simp] theorem took_cp : (s.took rest).cp = s.cp := rfl
@[simp] theorem took_ic : (s.took rest).ic = s.ic := rfl
@[simp] theorem took_ram : (s.took rest).ram = s.ram := rfl
@[simp] theorem took_fatal : (s.took rest).fatal = s.fatal := rfl
@[simp] theorem took_response : (s.took rest).response = s.response := rfl
@[simp] theorem took_periphLog : (s.took rest).periphLog = s.periphLog := rfl
@[simp] theorem took_draws : (s.took rest).draws = s.draws := rfl
@[simp] theorem took_inbox : (s.took rest).inbox = rest := rfl
@[simp] theorem took_sched : (s.took rest).sched = s.sched := rfl
@[simp] theorem took_phase : (s.took rest).phase = s.phase := rfl
@[simp] theorem took_batchLeft : (s.took rest).batchLeft = s.batchLeft := rfl
@[simp] theorem took_notices : (s.took rest).notices = s.notices := rfl
@[simp] theorem took_saved : (s.took rest).saved = s.saved := rfl
@[simp] theorem took_fetched : (s.took rest).fetched = s.fetched := rfl

end took

theorem step_nil {s : State} (h : s.inbox = []) : step s = .next s := by
  unfold step stepPorts
  rw [h]

theorem step_cons {s : State} {e : PortEvent} {rest : List PortEvent} (h : s.inbox = e :: rest) :
    step s = perform e (s.took rest) := by
  unfold step stepPorts
  rw [h]
  rfl

theorem step_command {s : State} {c : Command} {rest : List PortEvent} (h : s.inbox = .command c :: rest) :
    step s = runCommand c (s.took rest) := step_cons h

theorem step_sched {s : State} {m : SchedMove} {rest : List PortEvent} (h : s.inbox = .sched m :: rest) :
    step s = schedMove m (s.took rest) := step_cons h

theorem step_host {s : State} {m : HostMove} {rest : List PortEvent} (h : s.inbox = .host m :: rest) :
    step s = hostMove m (s.took rest) := step_cons h

/-- A decoded command on the port is `exec`, then what the machine makes of its response. -/
theorem runCommand_ok {c : Command} {i : Instr} (hd : decodeCommand c = .ok i) {s t : State} (h : exec i s = .next t) :
    runCommand c s = .next (observeInstr s i t) := by
  simp only [runCommand, hd, h, andNext]

/-- A response that is no FATAL is not observed as one. -/
theorem observeFatal_of_not_fatal {before s : State} (h : ∀ r, s.response ≠ some (.fatal r)) : observeFatal before s = s := by
  unfold observeFatal
  split
  · rename_i r hr
    exact absurd hr (h r)
  · rfl

/-- The first Fatal stops the run and is reported (60_exceptions.md R143). -/
theorem observeFatal_first {before s : State} {x : FatalReason} {r : FatalRecord} (hx : s.response = some (.fatal x))
    (hb : before.fatal = none) (hr : s.fatal = some r) :
    observeFatal before s = (endBatch (s.setRunning false)).notify (.fatal r.reason r.info s.sched.pc) := by
  simp only [observeFatal, hx, hb, hr]

/-- A later Fatal stops the run, which is stopped, and is not reported again. -/
theorem observeFatal_halted {before s : State} {x : FatalReason} (hx : s.response = some (.fatal x))
    (hb : before.fatal ≠ none) : observeFatal before s = endBatch (s.setRunning false) := by
  unfold observeFatal
  split
  · dsimp only
    split
    · simp_all
    · rfl
  · simp_all

theorem abortPhase_fetch {f : Abort} (h : f.isFetch = true) : abortPhase f = .prefetchAborted := by simp [abortPhase, h]

theorem abortPhase_data {f : Abort} (h : f.isFetch = false) : abortPhase f = .dataAborted := by simp [abortPhase, h]

/-- Everything the machine can make of a command's response: a FATAL is observed, an abort of the executing core waits for
its redirection, and else only the FETCH is noted (60_exceptions.md R134, R143). -/
theorem observe_cases (before : State) (b : Bool) (s : State) :
    (∃ r, s.response = some (.fatal r) ∧ observe before b s = observeFatal before (s.markFetched b))
      ∨ (∃ f, s.response = some (.abort f) ∧ s.phase = .execute
        ∧ observe before b s = (s.markFetched b).setPhase (abortPhase f))
      ∨ (s.phase = .execute → ∀ f, s.response ≠ some (.abort f)) ∧ (∀ r, s.response ≠ some (.fatal r))
        ∧ observe before b s = s.markFetched b := by
  by_cases hf : ∃ r, s.response = some (.fatal r)
  · obtain ⟨r, hr⟩ := hf
    refine .inl ⟨r, hr, ?_⟩
    have hp : (observeFatal before (s.markFetched b)).phase = .between := by
      simp only [observeFatal, markFetched_response, hr]
      split <;> rfl
    simp only [observe, observeAbort, hp]
  · have hn : ∀ r, s.response ≠ some (.fatal r) := fun r hr => hf ⟨r, hr⟩
    have ho : observe before b s = observeAbort (s.markFetched b) := by
      rw [observe, observeFatal_of_not_fatal (s := s.markFetched b) hn]
    rw [ho, observeAbort]
    split
    · rename_i f hp hr
      exact .inr (.inl ⟨f, hr, hp, rfl⟩)
    · rename_i h
      exact .inr (.inr ⟨fun hp f hr => h f hp hr, hn, rfl⟩)

/-- A command on the port always answers a next state: what the machine makes of a state that differs from the one before
in the block and the response only (10_state.md R16). -/
theorem runCommand_next (c : Command) (s : State) :
    ∃ b v, ClientFrame s v ∧ runCommand c s = .next (observe s b v) := by
  unfold runCommand
  split
  · rename_i i _
    obtain ⟨v, hv⟩ := exec_next i s
    exact ⟨isFetchCommand i, v, exec_client hv, by simp only [hv, andNext, observeInstr]⟩
  · obtain ⟨v, hv⟩ := execIllegal_next c.cmd s
    refine ⟨false, v, ?_, by simp only [hv, andNext]⟩
    by_cases hf : s.fatal = none
    · rw [execIllegal_live hf] at hv
      cases hv
      refine .of_eq ?_ ?_ ?_ ?_ ?_ ?_ ?_ ?_ <;> simp
    · rw [show execIllegal c.cmd s = _ from command_halted hf _] at hv
      cases hv
      exact .of_eq rfl rfl rfl rfl rfl rfl rfl rfl

theorem execIrqpend_live {s : State} (h : s.fatal = none) :
    execIrqpend s = .next (s.respond (.ok (bit (irqPending s.ic)))) := exec_live h .irqpend

theorem execIrqaccept_live {s : State} (h : s.fatal = none) : execIrqaccept s = .next (conclude (acceptIrq s)) :=
  exec_live h .irqaccept

/-! ### Step 1 -/

/-- Step 1 where the core is not to be interrupted: no command (60_exceptions.md R139). -/
theorem schedPoll_quiet {s : State} {mask : Bool} (hp : s.phase = .top)
    (h : (s.sched.opts.suppressInterrupts || mask) = true) : schedPoll mask s = .next (beforeFetch s) := by
  simp only [schedPoll, hp, h, if_true]

/-- Step 1 where it may be: IRQPEND decides (R139). -/
theorem schedPoll_asks {s : State} {mask : Bool} (hp : s.phase = .top)
    (h : (s.sched.opts.suppressInterrupts || mask) = false) (hl : s.fatal = none) :
    schedPoll mask s
      = .next (if irqPending s.ic = true then (s.respond (.ok 1)).setPhase .accept else beforeFetch (s.respond (.ok 0))) := by
  simp only [schedPoll, hp, h, if_true, Bool.false_eq_true, if_false, execIrqpend_live hl, andNext, respond_response]
  cases irqPending s.ic <;> simp

/-- Step 1's acceptance (R139). -/
theorem schedAccept_takes {s : State} (entry : Word) {irq : Irq} {q : List Irq} (hp : s.phase = .accept) (hl : s.fatal = none)
    (hq : s.ic.pending = irq :: q) (hf : queueFull s.cfg s.ic.acknowledged = false) :
    schedAccept entry s
      = .next (beforeFetch
          ((((s.setIc { s.ic with pending := q, acknowledged := s.ic.acknowledged ++ [irq] }).respond
            (.ok (irq.setWidth 32))).setHalted false).setPc entry)) := by
  have h : acceptIrq s
      = .ok (irq.setWidth 32) (s.setIc { s.ic with pending := q, acknowledged := s.ic.acknowledged ++ [irq] }) := by
    simp only [acceptIrq, hq, hf, Bool.false_eq_true, if_false]
  simp only [schedAccept, hp, if_true, execIrqaccept_live hl, h, conclude_ok, andNext, respond_response]

/-! ### Steps 2, 3 and 8 -/

theorem beforeFetch_phase (s : State) : (beforeFetch s).phase = .fetch ∨ (beforeFetch s).phase = .between := by
  unfold beforeFetch
  split
  · exact .inr rfl
  · split
    · exact .inr rfl
    · exact .inl rfl

@[simp] theorem beforeFetch_ic (s : State) : (beforeFetch s).ic = s.ic := by
  unfold beforeFetch
  split
  · rfl
  · split <;> rfl

@[simp] theorem beforeFetch_response (s : State) : (beforeFetch s).response = s.response := by
  unfold beforeFetch
  split
  · rfl
  · split <;> rfl

@[simp] theorem beforeFetch_fatal (s : State) : (beforeFetch s).fatal = s.fatal := by
  unfold beforeFetch
  split
  · rfl
  · split <;> rfl

@[simp] theorem beforeFetch_halted (s : State) : (beforeFetch s).sched.halted = s.sched.halted := by
  unfold beforeFetch
  split
  · rfl
  · split <;> rfl

@[simp] theorem beforeFetch_pc (s : State) : (beforeFetch s).sched.pc = s.sched.pc := by
  unfold beforeFetch
  split
  · rfl
  · split <;> rfl

/-- Everything steps 2 and 3 can do to the batch: it goes on to the fetch, or ends. -/
theorem beforeFetch_batch (s : State) :
    ((beforeFetch s).phase = .fetch ∧ (beforeFetch s).batchLeft = s.batchLeft)
      ∨ ((beforeFetch s).phase = .between ∧ (beforeFetch s).batchLeft = 0) := by
  unfold beforeFetch
  split
  · exact .inr ⟨rfl, rfl⟩
  · split
    · exact .inr ⟨rfl, rfl⟩
    · exact .inl ⟨rfl, rfl⟩

theorem beforeFetch_halt {s : State} (h : s.sched.halted = true) : beforeFetch s = endBatch s := by simp [beforeFetch, h]

@[simp] theorem notifyBranch_sched (target : Option Word) (s : State) : (notifyBranch target s).sched = s.sched := by
  cases target <;> rfl

@[simp] theorem notifyBranch_batchLeft (target : Option Word) (s : State) : (notifyBranch target s).batchLeft = s.batchLeft := by
  cases target <;> rfl

theorem notifyBranch_block (target : Option Word) (s : State) : SameBlock s (notifyBranch target s) := by
  cases target <;> exact ⟨rfl, rfl, rfl, rfl, rfl, rfl⟩

/-- Step 8 with a stop condition (R142). -/
theorem retire_stops {s : State} {target : Option Word} {call : Bool}
    (h : stopDue (retired s.sched target) target.isSome call = true) :
    retire target call s = stopRun (notifyBranch target { s with sched := retired s.sched target }) := by
  simp only [retire, notifyBranch_sched, h, if_true]

/-- Step 8 without one. -/
theorem retire_goes_on {s : State} {target : Option Word} {call : Bool}
    (h : ¬stopDue (retired s.sched target) target.isSome call = true) :
    retire target call s = endStep (notifyBranch target { s with sched := retired s.sched target }) := by
  simp only [retire, notifyBranch_sched, h]
  rfl

/-- Everything step 8 can do to the batch: one step is used up, or the batch ends. -/
theorem retire_batch (target : Option Word) (call : Bool) (s : State) :
    ((retire target call s).batchLeft = s.batchLeft - 1
        ∧ (retire target call s).phase = if s.batchLeft - 1 = 0 then .between else .top)
      ∨ ((retire target call s).phase = .between ∧ (retire target call s).batchLeft = 0) := by
  by_cases h : stopDue (retired s.sched target) target.isSome call = true
  · rw [retire_stops h]
    exact .inr ⟨rfl, rfl⟩
  · rw [retire_goes_on h]
    exact .inl ⟨by simp, by simp⟩

end Sys2Proof.Machine
end

