-- ==== Sys2Proof/Machine/Boot.lean ====
section
/-! DEFINITION. The boot parameter block (70_reset_and_hazards.md R152, D45): its words, and the commands with which the
host writes it at `ATAG_BASE` before the first fetch, while translation is off. -/

namespace Sys2Proof.Machine

/-- What the boot parameter block tells the guest (R152). -/
structure BootParams where
  memSize : Word
  memBase : Word
  ramdiskKib : Word
  initrdStart : Word
  initrdSize : Word
  cmdline : List Byte
  deriving DecidableEq, Repr

/-- Bytes as little-endian words, the last one padded with zeros. -/
def packWords : List Byte → List Word
  | [] => []
  | [b0] => [ofBytes4 b0 0 0 0]
  | [b0, b1] => [ofBytes4 b0 b1 0 0]
  | [b0, b1, b2] => [ofBytes4 b0 b1 b2 0]
  | b0 :: b1 :: b2 :: b3 :: rest => ofBytes4 b0 b1 b2 b3 :: packWords rest

/-- A tag: `size_words`, which counts the two header words, `tag_id`, then the payload (R152). -/
def tag (tagId : Word) (payload : List Word) : List Word := BitVec.ofNat 32 (2 + payload.length) :: tagId :: payload

/-- The boot parameter block: CORE, MEM, RAMDISK, INITRD2, CMDLINE, NONE; the command line has a NUL (R152). DESIGN CHOICE
(log 18): all six tags always stand in it; the spec does not say whether one may be left out. -/
def bootWords (p : BootParams) : List Word :=
  tag 0x54410001 [] ++ tag 0x54410002 [p.memSize, p.memBase] ++ tag 0x54410004 [0, p.ramdiskKib, 0]
    ++ tag 0x54420005 [p.initrdStart, p.initrdSize] ++ tag 0x54410009 (packWords (p.cmdline ++ [0])) ++ [0, 0]

/-- The command with which the host stores the block's words: a plain word store, privileged or not, or STOREU. R152
allows both and does not choose. -/
inductive BootStore where
  | word (priv : Bool)
  | unaligned
  deriving DecidableEq, Repr

/-- The store of one word. -/
def bootStore (how : BootStore) (addr w : Word) : Instr :=
  match how with
  | .word priv => .stw priv addr w
  | .unaligned => .storeu addr w

/-- The stores that put words at rising addresses. DESIGN CHOICE (log 18): the host uses one form for all of them and goes
on after a store that fails; at an address of RAM that is no multiple of 4 a plain word store aborts
(43_bus.md R119) and STOREU writes. -/
def wordStores (how : BootStore) (addr : Word) : List Word → List PortEvent
  | [] => []
  | w :: ws => .command (encode (bootStore how addr w)) :: wordStores how (addr + 4) ws

/-- The commands with which the host writes the boot parameter block (R152). -/
def bootEvents (how : BootStore) (c : Config) (p : BootParams) : List PortEvent := wordStores how c.atagBase (bootWords p)

end Sys2Proof.Machine
end

