-- ==== Sys2Proof/Tests/Slice0.lean ====
section
/-! SUPPORT. The model's own tests. Expected values come from spec/: the vectors of 95_test_vectors.md (named in each
docstring), the encodings of 30_encoding.md written out by hand, the rules cited. Then, for each obligation with hypotheses,
a witness that meets all of them together. -/

namespace Sys2Proof.Tests

open Sys2Proof.Machine

/-! ### Small states -/

/-- The MMU of 95_test_vectors.md, "MMU(t, dacr)", after word writes. -/
def mmu (t dacr : Word) (words : List (Word × Word)) : State :=
  let s := words.foldl (fun s c => memWrite s c.1 .word c.2) State.reset
  { s with
    tc := { s.tc with enabled := true, tableBase0 := tableBase16K t, domainRights := decodeDacr dacr }
    cp := { s.cp with sctlr := 0x00400001, ttbr0 := t, dacr := dacr } }

/-- The section entry of virtual address 0x80000000. -/
def section0 (dacr d1 : Word) : State := mmu 0x40000000 dacr [(0x40002000, d1)]

/-- The page table of vectors T18 to T24 with one entry, for virtual page 0x00103. -/
def page0 (dacr d2 : Word) : State := mmu 0x40000000 dacr [(0x40000004, 0x40004021), (0x4000400C, d2)]

/-- Reset with words in RAM. -/
def rstRam (words : List (Word × Word)) : State := words.foldl (fun s c => memWrite s c.1 .word c.2) State.reset

/-- Reset with interrupt queues. -/
def rstIc (depth : Option Nat) (pending acknowledged : List Irq) (enabled : Bool) : State :=
  { State.reset with
    cfg := { Config.default with irqQueueDepth := depth }
    ic := ⟨pending, acknowledged, enabled⟩ }

/-- Reset with one extra slot, of key 1. -/
def rstSlot (p : Policy) (r : ReadSource) (w : WriteSink) : State :=
  { State.reset with cfg := { Config.default with extraSlots := [⟨1, p, r, w⟩] } }

/-- Reset with something on the inputs, in a phase of the Scheduler's step. -/
def rstIn (phase : SchedPhase) (inbox : List PortEvent) : State := { State.reset with phase := phase, inbox := inbox }

/-- The state a command leaves. -/
def after (i : Instr) (s : State) : State := conclude (bodyOf i s)

/-- The status and the word R of a command's response. -/
def answer (i : Instr) (s : State) : Option (BitVec 2 × Word) :=
  (after i s).response.map fun r => (responseStatus r, responseWord r)

/-- The four bytes from an address. -/
def bytes4 (s : State) (a : Nat) : List Byte := [s.readByte a, s.readByte (a + 1), s.readByte (a + 2), s.readByte (a + 3)]

/-- `after` is what `exec` answers. -/
theorem exec_after {s : State} (h : s.fatal = none) (i : Instr) : exec i s = .next (after i s) := exec_live h i

/-! ### Well-formedness: "any other key" is no named slot's key (10_state.md R25) -/

theorem test_wf_refuses_cpr_of_a_named_key : (Instr.cprOther 0x0400).wf = false := by decide
theorem test_wf_refuses_cpw_of_a_named_key : (Instr.cpwOther 0x3401 7).wf = false := by decide
theorem test_wf_accepts_another_key : (Instr.cprOther 0x0401).wf = true ∧ (Instr.cpwOther 0 7).wf = true := by decide
theorem test_wf_refuses_overlapping_regions :
    ({ Config.default with regions := [⟨0, 0x2000, .ram⟩, ⟨0x1000, 0x1000, .periph 1⟩] } : Config).wf = false := by decide
theorem test_wf_refuses_a_region_past_the_physical_space :
    ({ Config.default with regions := [⟨0xFFFFF000, 0x1001, .periph 1⟩] } : Config).wf = false
      ∧ ({ Config.default with regions := [⟨0xFFFFF000, 0x1000, .periph 1⟩] } : Config).wf = true := by decide
theorem test_wf_accepts_an_empty_region_inside_another :
    ({ Config.default with regions := [⟨0, 0x2000, .ram⟩, ⟨0x1000, 0, .periph 1⟩] } : Config).wf = true := by decide
theorem test_wf_refuses_a_ram_region_not_of_words :
    ({ Config.default with regions := [⟨2, 0x2000, .ram⟩] } : Config).wf = false := by decide
theorem test_wf_refuses_a_fixed_bit_with_a_meaning : ({ Config.default with sctlrFixedBit := 13 } : Config).wf = false := by
  decide
theorem test_wf_refuses_an_extra_slot_of_a_named_key :
    ({ Config.default with extraSlots := [⟨0x0400, .rw, .storage, .storage⟩] } : Config).wf = false := by decide

/-! ### Decoding: words written out from 30_encoding.md R57 to R66, bit 31 first -/

/-- Format T: 0000 00000 P W 0…0 (R59). -/
theorem test_decode_xlat :
    decode 0b00000000000000000000000000000000 8 9 = .ok (.xlatUR 8)
      ∧ decode 0b00000000001000000000000000000000 8 9 = .ok (.xlatUW 8)
      ∧ decode 0b00000000010000000000000000000000 8 9 = .ok (.xlatPR 8)
      ∧ decode 0b00000000011000000000000000000000 8 9 = .ok (.xlatPW 8) := by decide

/-- Format M, loads: 0001 00 SZ F P 0…0 (R60). -/
theorem test_decode_load :
    decode 0b00010000000000000000000000000000 8 9 = .ok (.ldb false 8)
      ∧ decode 0b00010001010000000000000000000000 8 9 = .ok (.ldh true 8)
      ∧ decode 0b00010010000000000000000000000000 8 9 = .ok (.ldw false 8)
      ∧ decode 0b00010010110000000000000000000000 8 9 = .ok (.fetch true 8)
      ∧ decode 0b00010010100000000000000000000000 8 9 = .ok (.fetch false 8) := by decide

/-- Format M, stores: 0010 00 SZ 0 P 0…0 (R60). -/
theorem test_decode_store :
    decode 0b00100000010000000000000000000000 8 9 = .ok (.stb true 8 9)
      ∧ decode 0b00100001000000000000000000000000 8 9 = .ok (.sth false 8 9)
      ∧ decode 0b00100010010000000000000000000000 8 9 = .ok (.stw true 8 9)
      ∧ decode 0b00110000000000000000000000000000 8 9 = .ok (.storeu 8 9) := by decide

/-- Format K, reads: 0100 0…0, then major, op1, minor, op2 (R62, R66). -/
theorem test_decode_cpr :
    decode 0b01000000000000000000010000000000 8 9 = .ok .cprSctlr
      ∧ decode 0b01000000000000000000100000000000 8 9 = .ok .cprTtbr0
      ∧ decode 0b01000000000000000000100000000001 8 9 = .ok .cprTtbr1
      ∧ decode 0b01000000000000000000100000000010 8 9 = .ok .cprTtbcr
      ∧ decode 0b01000000000000000000110000000000 8 9 = .ok .cprDacr
      ∧ decode 0b01000000000000000001010000000000 8 9 = .ok .cprDfsr
      ∧ decode 0b01000000000000000001010000000001 8 9 = .ok .cprIfsr
      ∧ decode 0b01000000000000000001100000000000 8 9 = .ok .cprDfar
      ∧ decode 0b01000000000000000001100000000010 8 9 = .ok .cprIfar
      ∧ decode 0b01000000000000000011010000000001 8 9 = .ok .cprContextidr
      ∧ decode 0b01000000000000000000010000000001 8 9 = .ok (.cprOther 0x0401) := by decide

/-- Format K, writes: 0101 0…0, then the key; the value is D (R62, R68). -/
theorem test_decode_cpw :
    decode 0b01010000000000000000010000000000 8 9 = .ok (.cpwSctlr 9)
      ∧ decode 0b01010000000000000000100000000000 8 9 = .ok (.cpwTtbr0 9)
      ∧ decode 0b01010000000000000000100000000001 8 9 = .ok (.cpwTtbr1 9)
      ∧ decode 0b01010000000000000000100000000010 8 9 = .ok (.cpwTtbcr 9)
      ∧ decode 0b01010000000000000000110000000000 8 9 = .ok (.cpwDacr 9)
      ∧ decode 0b01010000000000000001010000000000 8 9 = .ok (.cpwDfsr 9)
      ∧ decode 0b01010000000000000001010000000001 8 9 = .ok (.cpwIfsr 9)
      ∧ decode 0b01010000000000000001100000000000 8 9 = .ok (.cpwDfar 9)
      ∧ decode 0b01010000000000000001100000000010 8 9 = .ok (.cpwIfar 9)
      ∧ decode 0b01010000000000000011010000000001 8 9 = .ok (.cpwContextidr 9)
      ∧ decode 0b01010000000000000011111111111111 8 9 = .ok (.cpwOther 0x3FFF 9) := by decide

/-- Formats I, N and E: the interrupt commands (R63 to R65). -/
theorem test_decode_irq :
    decode 0b01100000000000001000000000000101 8 9 = .ok (.irqraise 0x8005)
      ∧ decode 0b01110000000000000000000000000000 8 9 = .ok .irqpend
      ∧ decode 0b10000000000000000000000000000000 8 9 = .ok .irqaccept
      ∧ decode 0b10010000000000000000000000000110 8 9 = .ok (.irqeoi 6)
      ∧ decode 0b10100000000000000000000000000001 8 9 = .ok (.irqenable true)
      ∧ decode 0b10100000000000000000000000000000 8 9 = .ok (.irqenable false) := by decide

/-- Vectors E1 to E5, E8, K15 and Q10, and the unassigned operations (R70, R71). -/
theorem test_decode_illegal :
    decode 0x22C00000 0 0 = .error .badFetch ∧ decode 0x13400000 0 0 = .error .reservedSize
      ∧ decode 0x11C00000 0 0 = .error .badFetch ∧ decode 0xB0000000 0 0 = .error .reservedOp
      ∧ decode 0xF0000000 0 0 = .error .reservedOp ∧ decode 0x00100000 0 0 = .error .reservedBit
      ∧ decode 0x70000001 0 0 = .error .reservedBit ∧ decode 0x40004400 0 0 = .error .reservedBit
      ∧ decode 0xA0000003 0 0 = .error .reservedBit ∧ decode 0x60010000 0 0 = .error .reservedBit := by decide

/-- The table's bits: cmd lowest, then A, then D. -/
theorem test_decodeTableWord :
    decodeTableWord 32 0x22400000 = some (.stw true 0 0)
      ∧ decodeTableWord 96 0x123456780000000422400000 = some (.stw true 4 0x12345678)
      ∧ decodeTableWord 32 0xB0000000 = none := by decide

/-! ### Translation (95_test_vectors.md, T1 to T26) -/

/-- T1: translation off. -/
theorem test_T1_off : answer (.xlatUW 0xDEADBEEF) State.reset = some (0, 0xDEADBEEF) := by decide

/-- T2, T3: formats 0 and 3. -/
theorem test_T2_T3_formats :
    answer (.xlatUR 0x80000000) (section0 4 0) = some (1, 0x005)
      ∧ answer (.xlatPW 0x80000000) (section0 4 0x00000C23) = some (1, 0x805) := by decide

/-- T4: a supersection; its info word is the address and nothing is recorded. -/
theorem test_T4_supersection :
    answer (.xlatPR 0x80000000) (section0 4 0x00040C22) = some (2, 8)
      ∧ (after (.xlatPR 0x80000000) (section0 4 0x00040C22)).fatal = some ⟨.supersection, 0x80000000⟩
      ∧ (after (.xlatPR 0x80000000) (section0 4 0x00040C22)).cp.dfsr = 0 := by decide

/-- T6, T7, T15: the domain decides first. -/
theorem test_T6_T7_T15_domains :
    answer (.xlatPR 0x80000000) (section0 0 0x00000C22) = some (1, 0x009)
      ∧ answer (.xlatUW 0x80000000) (section0 8 0x00000C22) = some (1, 0x809)
      ∧ answer (.xlatUW 0x80000000) (section0 0xC 0x00008022) = some (0, 0) := by decide

/-- T9 to T12 and T14: permissions of a section. -/
theorem test_T9_T14_section_permissions :
    answer (.xlatUR 0x80000000) (section0 4 0x00000422) = some (1, 0x00D)
      ∧ answer (.xlatPW 0x80000000) (section0 4 0x00000422) = some (0, 0)
      ∧ answer (.xlatUW 0x80000000) (section0 4 0x00000822) = some (1, 0x80D)
      ∧ answer (.xlatPW 0x80000000) (section0 4 0x00008422) = some (1, 0x80D)
      ∧ answer (.xlatUR 0x80000000) (section0 4 0x00008822) = some (0, 0)
      ∧ answer (.xlatPR 0x80000000) (section0 4 0x00008022) = some (2, 10) := by decide

/-- T16, T17: the section's physical address. -/
theorem test_T16_T17_section_address :
    answer (.xlatUR 0x80054321) (section0 4 0x12300C22) = some (0, 0x12354321)
      ∧ answer (.xlatPW 0xFFFFFFFF) (mmu 0x40000000 3 [(0x40003FFC, 0x00000C02)]) = some (0, 0x000FFFFF) := by decide

/-- T18, T19, T21, T22, T24: small pages. -/
theorem test_T18_T24_pages :
    answer (.xlatUR 0x00103010) (page0 4 0) = some (1, 0x007)
      ∧ answer (.xlatUR 0x00103010) (page0 4 0x00005001) = some (2, 9)
      ∧ answer (.xlatUR 0x00103ABC) (page0 4 0x00005023) = some (0, 0x5ABC)
      ∧ answer (.xlatPW 0x00103010) (page0 4 0x00005212) = some (1, 0x80F)
      ∧ answer (.xlatPR 0x00103010) (page0 1 0x00005032) = some (1, 0x00B) := by decide

/-- T25, T26: a table in no RAM. -/
theorem test_T25_T26_table_not_in_ram :
    answer (.xlatPR 0) (mmu 0x10000000 3 []) = some (2, 5)
      ∧ (after (.xlatPR 0) (mmu 0x20000000 3 [])).fatal = some ⟨.unmappedAddress, 0x20000000⟩ := by decide

/-! ### Control registers (K1 to K16) -/

/-- K1, K2, K3: SCTLR. -/
theorem test_K1_K3_sctlr :
    answer .cprSctlr State.reset = some (0, 0x00400000)
      ∧ (after (.cpwSctlr 0x2003) State.reset).cp.sctlr = 0x00402003
      ∧ levelOutputs (after (.cpwSctlr 0x2003) State.reset) = ⟨true, true, false⟩
      ∧ vectorBase (after (.cpwSctlr 0x2003) State.reset) = 0xFFFF0000
      ∧ answer (.cpwSctlr 0x01000001) State.reset = some (2, 11) := by decide

/-- K5, K6: the table bases. -/
theorem test_K5_K6_ttbr :
    (after (.cpwTtbr0 0x40003FFF) State.reset).tc.tableBase0 = 0x40000000
      ∧ (after (.cpwTtbr0 0x40003FFF) State.reset).cp.ttbr0 = 0x40003FFF
      ∧ (after (.cpwTtbr1 0x12345678) State.reset).tc.tableBase1 = 0x12344000
      ∧ answer .cprTtbr1 (after (.cpwTtbr1 0x12345678) State.reset) = some (0, 0x12345678) := by decide

/-- K7, K8: TTBCR. -/
theorem test_K7_K8_ttbcr :
    answer (.cpwTtbcr 1) State.reset = some (2, 4) ∧ (after (.cpwTtbcr 1) State.reset).cp.ttbcr = 0
      ∧ answer .cprTtbcr (after (.cpwTtbcr 0x30) State.reset) = some (0, 0x30) := by decide

/-- K10: DACR 0xE4. -/
theorem test_K10_dacr :
    (after (.cpwDacr 0xE4) State.reset).tc.domainRights.toList.take 5
      = [.noAccess, .client, .reserved, .manager, .noAccess] := by decide

/-- K11: CONTEXTIDR. -/
theorem test_K11_contextidr :
    (after (.cpwContextidr 0x142) State.reset).tc.asid = 0x42
      ∧ answer .cprContextidr (after (.cpwContextidr 0x142) State.reset) = some (0, 0x142) := by decide

/-- K12: the fault registers hold what is written, each for itself. -/
theorem test_K12_fault_registers :
    answer .cprDfsr (after (.cpwDfsr 0xFFFFFFFF) State.reset) = some (0, 0xFFFFFFFF)
      ∧ answer .cprIfsr (after (.cpwIfsr 0x12) State.reset) = some (0, 0x12)
      ∧ answer .cprIfar (after (.cpwIfar 0x1234) State.reset) = some (0, 0x1234)
      ∧ answer .cprDfar (after (.cpwIfar 0x1234) State.reset) = some (0, 0)
      ∧ answer .cprDfar (after (.cpwDfar 0x5678) State.reset) = some (0, 0x5678) := by decide

/-- K13, K14: no slot; then Halted. -/
theorem test_K13_K14_unknown_key :
    (after (.cprOther 0) State.reset).fatal = some ⟨.unknownRegister, 0⟩
      ∧ answer (.cpwOther 1 5) State.reset = some (2, 1) := by decide

/-- Extra slots: a constant, storage, an ignored write (41_cp15.md R108), and the policies (R96). -/
theorem test_extra_slots :
    answer (.cprOther 1) (rstSlot .ro (.constant 7) .ignore) = some (0, 7)
      ∧ answer (.cprOther 1) (after (.cpwOther 1 9) (rstSlot .rw .storage .storage)) = some (0, 9)
      ∧ answer (.cpwOther 1 9) (rstSlot .ro (.constant 7) .ignore) = some (2, 2)
      ∧ answer (.cprOther 1) (rstSlot .wo .storage .storage) = some (2, 2) := by decide

/-- K16: a fault mirrors into both pairs. -/
theorem test_K16_recording :
    (after (.xlatUW 0x80000010) (section0 4 0x00000822)).cp
      = { (section0 4 0x00000822).cp with dfsr := 0x80D, ifsr := 0x80D, dfar := 0x80000010, ifar := 0x80000010 } := by
  decide

/-! ### The interrupt controller (Q1 to Q10) -/

/-- Q1, Q2: an adjacent duplicate is suppressed, another is not. -/
theorem test_Q1_Q2_raise :
    (after (.irqraise 5) (rstIc none [5] [] false)).ic.pending = [5]
      ∧ (after (.irqraise 5) (rstIc none [5, 6] [] false)).ic.pending = [5, 6, 5] := by decide

/-- Q6, Q1: IRQPEND reads the enable; id 0 is an id. -/
theorem test_Q6_pend :
    answer .irqpend (rstIc none [0] [] true) = some (0, 1) ∧ answer .irqpend (rstIc none [0] [] false) = some (0, 0) := by decide

/-- Q3, Q4: IRQACCEPT. -/
theorem test_Q3_Q4_accept :
    answer .irqaccept State.reset = some (2, 12)
      ∧ answer .irqaccept (rstIc none [3, 4] [9] false) = some (0, 3)
      ∧ (after .irqaccept (rstIc none [3, 4] [9] false)).ic = ⟨[4], [9, 3], false⟩ := by decide

/-- Q5: IRQEOI completes the oldest only. -/
theorem test_Q5_eoi :
    answer (.irqeoi 2) (rstIc none [] [1, 2] false) = some (2, 13)
      ∧ (after (.irqeoi 2) (rstIc none [] [1, 2] false)).ic.acknowledged = [1, 2]
      ∧ (after (.irqeoi 1) (rstIc none [] [1, 2] false)).ic.acknowledged = [2] := by decide

/-- Q7, Q8, Q9: the limits. -/
theorem test_Q7_Q9_limits :
    answer (.irqraise 64) State.reset = some (2, 6)
      ∧ (after (.irqraise 3) (rstIc (some 2) [1, 2] [] false)).fatal = some ⟨.queueOverflow, 3⟩
      ∧ answer .irqaccept (rstIc (some 1) [2] [1] false) = some (2, 7) := by decide

/-- IRQENABLE (R114). -/
theorem test_irqenable : (after (.irqenable true) (rstIc none [5] [6] false)).ic = ⟨[5], [6], true⟩ := by decide

/-! ### The Bus (B1 to B16) -/

/-- B1: little-endian bytes, reads of every width. -/
theorem test_B1_loads :
    answer (.ldw true 0x100) (rstRam [(0x100, 0x12345678)]) = some (0, 0x12345678)
      ∧ answer (.ldh true 0x102) (rstRam [(0x100, 0x12345678)]) = some (0, 0x1234)
      ∧ answer (.ldb true 0x103) (rstRam [(0x100, 0x12345678)]) = some (0, 0x12)
      ∧ answer (.ldb true 0x101) (rstRam [(0x100, 0x12345678)]) = some (0, 0x56) := by decide

/-- B2, B5, B12: misaligned. -/
theorem test_B2_B5_B12_misaligned :
    answer (.ldh true 0x101) State.reset = some (1, 0x001)
      ∧ answer (.sth true 0x201 5) (rstRam [(0x200, 1)]) = some (1, 0x801)
      ∧ (after (.sth true 0x201 5) (rstRam [(0x200, 1)])).ram = (rstRam [(0x200, 1)]).ram
      ∧ answer (.fetch true 0x8002) State.reset = some (1, 0x00010001)
      ∧ (after (.fetch true 0x8002) State.reset).cp.ifar = 0x8002 := by decide

/-- B1, B4: stores of every width. -/
theorem test_B1_B4_stores :
    bytes4 (after (.stw true 0x100 0x12345678) State.reset) 0x100 = [0x78, 0x56, 0x34, 0x12]
      ∧ bytes4 (after (.sth true 0x200 0xAABBCCDD) State.reset) 0x200 = [0xDD, 0xCC, 0, 0]
      ∧ bytes4 (after (.stb true 0x203 0x1FF) State.reset) 0x200 = [0, 0, 0, 0xFF] := by decide

/-- B6, B7: STOREU at an even and at an odd address. -/
theorem test_B6_B7_storeu :
    bytes4 (after (.storeu 0x1002 0x11223344) State.reset) 0x1002 = [0x44, 0x33, 0x22, 0x11]
      ∧ bytes4 (after (.storeu 0x1001 0xA1B2C3D4) State.reset) 0x1001 = [0xD4, 0xC3, 0xB2, 0xA1] := by decide

/-- B8: the first piece of a STOREU that fails stays. -/
theorem test_B8_storeu_partial :
    (after (.storeu 0x000FFFFE 0x11223344) State.reset).fatal = some ⟨.unmappedAddress, 0x00100000⟩
      ∧ bytes4 (after (.storeu 0x000FFFFE 0x11223344) State.reset) 0xFFFFE = [0x44, 0x33, 0, 0] := by decide

/-- B9: peripheral accesses are not alignment-checked and keep offset, width and data. -/
theorem test_B9_peripheral :
    (after (.ldw true 0x10000002) State.reset).periphLog = [.read 1 2 .word]
      ∧ (after (.sth true 0x10000001 0xBEEF) State.reset).periphLog = [.write 1 1 .half 0xBEEF] := by decide

/-- B10, B11: no region; FETCH. -/
theorem test_B10_B11 :
    (after (.ldw true 0x20000000) State.reset).fatal = some ⟨.unmappedAddress, 0x20000000⟩
      ∧ answer (.fetch true 0x8000) (rstRam [(0x8000, 0xE3A00001)]) = some (0, 0xE3A00001) := by decide

/-- B14, B15, B16: permission, then alignment; translation wins over alignment. -/
theorem test_B14_B16_order :
    answer (.stw false 0x00103010 0) (page0 4 0x00005022) = some (1, 0x80F)
      ∧ answer (.ldw true 0x00103012) (page0 4 0x00005022) = some (1, 0x001)
      ∧ answer (.ldw true 0x00103012) (page0 4 0) = some (1, 0x007) := by decide

/-- The last address of the last RAM region, and the byte after it (43_bus.md R117). -/
theorem test_ram_edge :
    answer (.ldb true 0x400FFFFF) State.reset = some (0, 0) ∧ answer (.ldb true 0x40100000) State.reset = some (2, 3) := by decide

/-! ### The boot parameter block (Program 4, steps 1 to 8, is its CORE, MEM and NONE tags) -/

/-- R152: tag headers, the NUL of the command line, the closing tag. -/
theorem test_boot_words :
    bootWords ⟨0x00100000, 0, 16, 0x200, 0x300, [0x61, 0x62, 0x63]⟩
      = [2, 0x54410001, 4, 0x54410002, 0x00100000, 0, 5, 0x54410004, 0, 16, 0, 4, 0x54420005, 0x200, 0x300,
        3, 0x54410009, 0x00636261, 0, 0] := by decide

/-- R152: the block is written with plain word stores or with STOREU, at rising word addresses from `ATAG_BASE` on. -/
theorem test_boot_stores :
    (bootEvents (.word true) Config.default ⟨0, 0, 0, 0, 0, []⟩).take 2
        = [.command ⟨0x22400000, 0x100, 2⟩, .command ⟨0x22400000, 0x104, 0x54410001⟩]
      ∧ (bootEvents .unaligned Config.default ⟨0, 0, 0, 0, 0, []⟩).take 2
        = [.command ⟨0x30000000, 0x100, 2⟩, .command ⟨0x30000000, 0x104, 0x54410001⟩] := by decide

/-- `IC_MAP` (60_exceptions.md R145): the address, the direction. -/
theorem test_ic_map :
    icLookup { Config.default with icMap := [⟨0x10000010, true, .eoi 0 16⟩] } true 0x10000010 = some (.eoi 0 16)
      ∧ icLookup { Config.default with icMap := [⟨0x10000010, true, .eoi 0 16⟩] } false 0x10000010 = none := by decide

/-- `IC_MAP` gives the bits too (42_interrupt.md R114): the enable in bit 31 or 0, the id in bits [12:3] or [15:0]. -/
theorem test_ic_map_bits :
    icCommand (.enable 31) 0x80000000 = .irqenable true ∧ icCommand (.enable 0) 0x80000000 = .irqenable false
      ∧ icCommand (.eoi 3 10) 0xFFFFE03F = .irqeoi 7 ∧ icCommand (.eoi 0 16) 0xABCD0007 = .irqeoi 7 := by decide

/-! ### One step on the ports -/

/-- The command put where `step` takes its next one is the one that runs (log 1). -/
theorem test_step_runs_the_placed_command :
    step (State.reset.withFetchWord 96 0x123456780000010022400000)
      = .next (after (.stw true 0x100 0x12345678) (State.reset.took [])) := by rfl

/-- The state one step leaves. -/
def stepped (s : State) : State :=
  match step s with
  | .next t => t
  | _ => s

/-- 60_exceptions.md R138, D51: an undefined instruction goes to its entry and is not counted; a failed condition is. -/
theorem test_scheduler_decode :
    (stepped (rstIn .decode [.sched (.decoded (.undefined 4))])).sched.pc = 4
      ∧ (stepped (rstIn .decode [.sched (.decoded (.undefined 4))])).sched.icount = 0
      ∧ (stepped (rstIn .decode [.sched (.decoded .conditionFails)])).sched.pc = 0x8004
      ∧ (stepped (rstIn .decode [.sched (.decoded .conditionFails)])).sched.icount = 1 := by decide

/-- R138 step 5, R136: the breakpoint instruction and the breakpoint address stop the run. -/
theorem test_scheduler_breakpoints :
    (stepped { rstRam [(0x8000, 0xE1200070)] with
        phase := .fetch
        sched := { ExecState.reset Config.default with opts := { SchedOptions.none with stopInstruction := some 0xE1200070 } }
        inbox := [.sched (.fetch true 0xC)] }).notices = [.stopped 0x8000]
      ∧ (stepped { rstIn .top [.sched (.poll true)] with
        sched := { ExecState.reset Config.default with opts := { SchedOptions.none with stopAddress := some 0x8000 } } }).notices
        = [.stopped 0x8000] := by decide

/-- 42_interrupt.md R110: a raise takes effect as an IRQRAISE command. -/
theorem test_raise_input : (stepped (rstIn .between [.raise 5])).ic.pending = [5] := by decide

/-- P7: a snapshot and its restore. -/
theorem test_snapshot_round_trip :
    (stepped { section0 4 0x00000C22 with inbox := [.host .takeSnapshot] }).saved = some (takeSnapshot (section0 4 0x00000C22)) := by
  decide

/-- R156: the host writes RAM before the first fetch only. -/
theorem test_host_write :
    bytes4 (stepped (rstIn .between [.host (.writeRam 0x100 [1, 2])])) 0x100 = [1, 2, 0, 0]
      ∧ (stepped (rstIn .between [.command ⟨0x12C00000, 0x100, 0⟩])).fetched = true := by decide

/-! ### Witnesses: states and operands that meet all hypotheses of an obligation together -/

theorem witness_ResetLeavesTheListedValues : Config.default.wf = true := by decide

theorem witness_ResetSatisfiesTheInvariant : (rstSlot .rw .storage .storage).cfg.wf = true := by decide

/-- A store of RAM bytes, from a state with the invariant. -/
theorem witness_EveryStepKeepsTheInvariant :
    State.Inv (page0 4 0x00005032)
      ∧ ∃ t, step ((page0 4 0x00005032).withFetchWord 96 0x123456780000010022400000) = .next t := by
  refine ⟨by unfold State.Inv; decide, ?_⟩
  rw [step_command rfl]
  obtain ⟨t, h⟩ := exec_next (.stw true 0x100 0x12345678) ((page0 4 0x00005032).took [])
  exact ⟨_, runCommand_ok (i := .stw true 0x100 0x12345678) rfl h⟩

theorem witness_DecodeOfEncodeIsTheCommand : (Instr.cpwOther 0x3FFF 9).wf = true ∧ (Instr.xlatUR 0).wf = true := by decide

theorem witness_DecodedWordIsTheCommandsWord :
    decodeCommand ⟨0x10400000, 8, 9⟩ = .ok (.ldb true 8) ∧ decodeCommand ⟨0x50000401, 8, 9⟩ = .ok (.cpwOther 0x401 9) := by decide

/-- Clause by clause: an illegal word on the port; an id that is `IRQ_COUNT`. -/
theorem witness_IllegalCommandIsFatalAndChangesNothingElse :
    (rstIn .between [.command ⟨0xB0000000, 0, 0⟩]).live
      ∧ (rstIn .between [.command ⟨0xB0000000, 0, 0⟩]).inbox = [.command ⟨0xB0000000, 0, 0⟩]
      ∧ decodeCommand ⟨0xB0000000, 0, 0⟩ = .error .reservedOp ∧ State.reset.cfg.irqCount ≤ (64 : Irq).toNat :=
  ⟨rfl, rfl, by decide, by decide⟩

theorem witness_StepRunsTheCommandOnThePort :
    (rstIn .between [.command ⟨0x12400000, 0x100, 0⟩]).inbox = [.command ⟨0x12400000, 0x100, 0⟩]
      ∧ decodeCommand ⟨0x12400000, 0x100, 0⟩ = .ok (.ldw true 0x100)
      ∧ exec (.ldw true 0x100) (rstIn .between []) = .next (after (.ldw true 0x100) (rstIn .between []))
      ∧ (rstIn .between [.command ⟨0x12400000, 0x100, 0⟩]).phase = .between ∧ isFetchCommand (.ldw true 0x100) = false
      ∧ (after (.ldw true 0x100) (rstIn .between [])).response = some (.ok 0) :=
  ⟨rfl, by decide, exec_after rfl _, rfl, rfl, by decide⟩

theorem witness_RaiseInputDeliversIrqraiseAndEmptyInputsWait :
    (rstIn .between [.raise 5]).inbox = .raise 5 :: [] ∧ State.reset.inbox = [] := ⟨rfl, rfl⟩

theorem witness_TranslationOffIsTheIdentity : State.reset.tc.enabled = false ∧ State.reset.live := ⟨rfl, rfl⟩

/-- A Client with full access and a Manager. -/
theorem witness_XlatThroughASectionCompletes :
    (section0 4 0x12300C22).live ∧ (section0 4 0x12300C22).tc.enabled = true
      ∧ descRead (section0 4 0x12300C22)
          ((section0 4 0x12300C22).tc.tableBase0 ||| (((0x80054321 : Word).extractLsb' 20 12).setWidth 32 <<< 2)) = .ok 0x12300C22
      ∧ (0x12300C22 : Word).extractLsb' 0 2 = 2 ∧ (0x12300C22 : Word).getLsbD 18 = false
      ∧ grants (domainRight (section0 4 0x12300C22).tc ((0x12300C22 : Word).extractLsb' 5 4)) ((0x12300C22 : Word).getLsbD 15)
          ((0x12300C22 : Word).extractLsb' 10 2) true false
      ∧ grants (domainRight (section0 0xC 0x00008022).tc ((0x00008022 : Word).extractLsb' 5 4)) true 0 true false :=
  ⟨rfl, rfl, by decide, by decide, by decide, .inr ⟨by decide, by decide, by decide⟩, .inl (by decide)⟩

/-- Both formats of a small page. -/
theorem witness_XlatThroughASmallPageCompletes :
    (page0 4 0x00005032).live ∧ (page0 4 0x00005032).tc.enabled = true
      ∧ descRead (page0 4 0x00005032)
          ((page0 4 0x00005032).tc.tableBase0 ||| (((0x00103FFF : Word).extractLsb' 20 12).setWidth 32 <<< 2)) = .ok 0x40004021
      ∧ (0x40004021 : Word).extractLsb' 0 2 = 1
      ∧ descRead (page0 4 0x00005032)
          (((0x40004021 : Word) &&& 0xFFFFFC00) ||| (((0x00103FFF : Word).extractLsb' 12 8).setWidth 32 <<< 2)) = .ok 0x00005032
      ∧ (0x00005032 : Word).extractLsb' 0 2 = 2 ∧ (0x00005023 : Word).extractLsb' 0 2 = 3
      ∧ grants (domainRight (page0 4 0x00005032).tc ((0x40004021 : Word).extractLsb' 5 4)) ((0x00005032 : Word).getLsbD 9)
          ((0x00005032 : Word).extractLsb' 4 2) true false :=
  ⟨rfl, rfl, by decide, by decide, by decide, by decide, by decide, .inr ⟨by decide, by decide, by decide⟩⟩

/-- A section's hypotheses: the descriptor, the domain's right, whether the AP encoding is the reserved one, whether it
permits an unprivileged read. -/
def sectionCase (dacr d1 : Word) (right : DomainRight) (reservedAp permits : Bool) : Bool :=
  let s := section0 dacr d1
  s.tc.enabled && decide (descRead s (l1Addr s.tc.tableBase0 0x80000000) = .ok d1) && d1.extractLsb' 0 2 == 2
    && !d1.getLsbD 18 && domainRight s.tc (d1.extractLsb' 5 4) == right
    && decide (d1.getLsbD 15 = true ∧ d1.extractLsb' 10 2 = 0) == reservedAp
    && permitted (d1.getLsbD 15) (d1.extractLsb' 10 2) false false == permits

/-- One state for each clause: NoAccess, Reserved, Manager; a Client with the reserved encoding, without permission and with
it. -/
theorem witness_DomainIsCheckedBeforePermission_section :
    sectionCase 0 0x00000C22 .noAccess false true = true ∧ sectionCase 8 0x00000C22 .reserved false true = true
      ∧ sectionCase 0xC 0x00008022 .manager true false = true ∧ sectionCase 4 0x00008022 .client true false = true
      ∧ sectionCase 4 0x00000422 .client false false = true ∧ sectionCase 4 0x00000C22 .client false true = true := by decide

/-- The same of a page, with its format. -/
def pageCase (dacr d2 : Word) (format : BitVec 2) (right : DomainRight) (reservedAp permits : Bool) : Bool :=
  let s := page0 dacr d2
  s.tc.enabled && decide (descRead s (l1Addr s.tc.tableBase0 0x00103010) = .ok 0x40004021)
    && (0x40004021 : Word).extractLsb' 0 2 == 1 && decide (descRead s (l2Addr 0x40004021 0x00103010) = .ok d2)
    && d2.extractLsb' 0 2 == format && domainRight s.tc ((0x40004021 : Word).extractLsb' 5 4) == right
    && decide (d2.getLsbD 9 = true ∧ d2.extractLsb' 4 2 = 0) == reservedAp
    && permitted (d2.getLsbD 9) (d2.extractLsb' 4 2) false false == permits

theorem witness_DomainIsCheckedBeforePermission_page :
    pageCase 0 0x00005032 2 .noAccess false true = true ∧ pageCase 8 0x00005033 3 .reserved false true = true
      ∧ pageCase 0xC 0x00005202 2 .manager true false = true ∧ pageCase 4 0x00005202 2 .client true false = true
      ∧ pageCase 4 0x00005012 2 .client false false = true ∧ pageCase 4 0x00005033 3 .client false true = true := by decide

/-- First-level formats 0, 3, supersection, section, table; second-level formats 0, 1, 2, 3. -/
theorem witness_DescriptorFormatsDecideTheWalk :
    [0, 0x00000C23, 0x00040C22, 0x00000C22].map (fun d1 : Word =>
        (descRead (section0 4 d1) (l1Addr (section0 4 d1).tc.tableBase0 0x80000000), d1.extractLsb' 0 2, d1.getLsbD 18))
        = [(.ok 0, 0, false), (.ok 0x00000C23, 3, false), (.ok 0x00040C22, 2, true), (.ok 0x00000C22, 2, false)]
      ∧ [0, 0x00005001, 0x00005032, 0x00005023].map (fun d2 : Word =>
          (descRead (page0 4 d2) (l1Addr (page0 4 d2).tc.tableBase0 0x00103010),
            descRead (page0 4 d2) (l2Addr 0x40004021 0x00103010), d2.extractLsb' 0 2))
          = [(.ok 0x40004021, .ok 0, 0), (.ok 0x40004021, .ok 0x00005001, 1), (.ok 0x40004021, .ok 0x00005032, 2),
            (.ok 0x40004021, .ok 0x00005023, 3)]
      ∧ (section0 4 0).tc.enabled = true ∧ (page0 4 0).tc.enabled = true := by decide

/-- The first level in RAM (at its last word), in a peripheral, in no region; the second level likewise. -/
theorem witness_DescriptorsAreAlignedRamWords :
    (section0 4 0x00000C22).Inv ∧ route State.reset.cfg 0x400FFFFC = .ram
      ∧ (mmu 0x10000000 3 []).tc.enabled = true
      ∧ route (mmu 0x10000000 3 []).cfg (l1Addr (mmu 0x10000000 3 []).tc.tableBase0 0) = .periph 1 0
      ∧ route (mmu 0x20000000 3 []).cfg (l1Addr (mmu 0x20000000 3 []).tc.tableBase0 0) = .none
      ∧ descRead (section0 4 0x10000021) (l1Addr (section0 4 0x10000021).tc.tableBase0 0x80000000) = .ok 0x10000021
      ∧ (0x10000021 : Word).extractLsb' 0 2 = 1
      ∧ route State.reset.cfg (l2Addr 0x10000021 0x80000000) = .periph 1 0
      ∧ route State.reset.cfg (l2Addr 0x20000021 0x80000000) = .none :=
  ⟨by unfold State.Inv; decide, by decide, by decide, by decide, by decide, by decide, by decide, by decide, by decide⟩

/-- The three ends of a walk: a mapping, a fault (T12), a Fatal (T4). -/
theorem witness_OnlyAFaultOfTheWalkRecords :
    walk (section0 4 0x12300C22) 0x80054321 false false = .done 0x12354321
      ∧ walk (section0 4 0x00000822) 0x80000000 true false = .fault .permSection
      ∧ walk (section0 4 0x00040C22) 0x80000000 false true = .fatal .supersection 0x80000000 := by decide

/-- Two states that differ elsewhere; an XLAT that aborts and leaves no Fatal. -/
theorem witness_TranslationIsPure :
    (page0 4 0x00005032).tc.enabled = (after (.cpwIfar 7) (page0 4 0x00005032)).tc.enabled
      ∧ (page0 4 0x00005032).tc.tableBase0 = (after (.cpwIfar 7) (page0 4 0x00005032)).tc.tableBase0
      ∧ (page0 4 0x00005032).tc.domainRights = (after (.cpwIfar 7) (page0 4 0x00005032)).tc.domainRights
      ∧ descRead (page0 4 0x00005032) 0x40000004 = .ok 0x40004021
      ∧ descRead (after (.cpwIfar 7) (page0 4 0x00005032)) 0x40000004 = .ok 0x40004021
      ∧ descRead (page0 4 0x00005032) 0x4000400C = descRead (after (.cpwIfar 7) (page0 4 0x00005032)) 0x4000400C
      ∧ l1Addr (page0 4 0x00005032).tc.tableBase0 0x00103010 = 0x40000004 ∧ l2Addr 0x40004021 0x00103010 = 0x4000400C := by decide

theorem witness_TranslationIsPure_repeated :
    exec (xlatForm false true 0x80000010) (section0 4 0x00000822) = .next (after (.xlatUW 0x80000010) (section0 4 0x00000822))
      ∧ (after (.xlatUW 0x80000010) (section0 4 0x00000822)).fatal = none := ⟨exec_after rfl _, by decide⟩

theorem witness_PrivilegeOnlyAddsRights : walk (section0 4 0x00000822) 0x80000000 false false = .done 0 := by decide

/-- The last byte, halfword and word of a RAM region. -/
theorem witness_LoadsAndFetchesOfRamComplete :
    State.reset.live ∧ walk State.reset 0x000FFFFF false true = .done 0x000FFFFF ∧ route State.reset.cfg 0x000FFFFF = .ram
      ∧ (0x000FFFFF : Word).toNat % widthBytes .byte = 0
      ∧ walk State.reset 0x000FFFFE false true = .done 0x000FFFFE ∧ route State.reset.cfg 0x000FFFFE = .ram
      ∧ (0x000FFFFE : Word).toNat % widthBytes .half = 0
      ∧ walk State.reset 0x000FFFFC false true = .done 0x000FFFFC ∧ route State.reset.cfg 0x000FFFFC = .ram
      ∧ (0x000FFFFC : Word).toNat % widthBytes .word = 0 :=
  ⟨rfl, by decide⟩

theorem witness_StoresToRamComplete :
    (page0 4 0x00005032).live ∧ Memory.wf (page0 4 0x00005032).cfg (page0 4 0x00005032).ram = true
      ∧ walk (page0 4 0x00005032) 0x00103FFC true false = .done 0x00005FFC ∧ route (page0 4 0x00005032).cfg 0x00005FFC = .ram
      ∧ (0x00005FFC : Word).toNat % widthBytes .word = 0 ∧ (0x00005FFC : Word).toNat % widthBytes .half = 0
      ∧ (0x00005FFC : Word).toNat % widthBytes .byte = 0 := ⟨rfl, by decide⟩

theorem witness_ReadsSeeTheStoredWord :
    State.reset.live ∧ State.reset.tc.enabled = false ∧ Memory.wf State.reset.cfg State.reset.ram = true
      ∧ route State.reset.cfg 0x000FFFFC = .ram ∧ (0x000FFFFC : Word).toNat % 4 = 0 := ⟨rfl, by decide⟩

/-- The last byte of the peripheral's window, translation off. -/
theorem witness_PeripheralAccessesComplete :
    State.reset.live ∧ route State.reset.cfg 0x10000FFF = .periph 1 0xFFF
      ∧ walk State.reset 0x10000FFF false false = .done 0x10000FFF ∧ walk State.reset 0x10000FFF true false = .done 0x10000FFF :=
  ⟨rfl, by decide⟩

theorem witness_MisalignedRamAccessAborts :
    State.reset.live ∧ route State.reset.cfg 0x101 = .ram ∧ (0x101 : Word).toNat % widthBytes .half ≠ 0
      ∧ (0x101 : Word).toNat % widthBytes .word ≠ 0
      ∧ walk State.reset 0x101 false true = .done 0x101 ∧ walk State.reset 0x101 true true = .done 0x101 := ⟨rfl, by decide⟩

/-- No region; a fault of the walk; a fatal walk. -/
theorem witness_WalkAndRoutingComeBeforeAlignment :
    State.reset.live ∧ route State.reset.cfg 0x20000000 = .none ∧ walk State.reset 0x20000000 false true = .done 0x20000000
      ∧ walk State.reset 0x20000000 true true = .done 0x20000000
      ∧ (section0 4 0x00000822).live ∧ walk (section0 0 0x00000C22) 0x80000001 false true = .fault .domainSection
      ∧ walk (section0 4 0x00000822) 0x80000001 true false = .fault .permSection
      ∧ walk (section0 4 0x00040C22) 0x80000001 false true = .fatal .supersection 0x80000001
      ∧ walk (section0 4 0x00040C22) 0x80000001 true true = .fatal .supersection 0x80000001 :=
  ⟨rfl, by decide, by decide, by decide, rfl, by decide⟩

theorem witness_StoreuIsItsPieces : (0x1002 : Word).getLsbD 0 = false ∧ (0x1001 : Word).getLsbD 0 = true := by decide

/-- An even and an odd address, the last four bytes of a region. -/
theorem witness_StoreuToRamCompletes :
    State.reset.live ∧ State.reset.tc.enabled = false ∧ Memory.wf State.reset.cfg State.reset.ram = true
      ∧ (∀ i < 4, route State.reset.cfg ((0x000FFFFC : Word) + BitVec.ofNat 32 i) = .ram)
      ∧ ∀ i < 4, route State.reset.cfg ((0x00001001 : Word) + BitVec.ofNat 32 i) = .ram := ⟨rfl, by decide⟩

/-- A load that aborts, one that is fatal, one that completes; the same state for each clause's premise. -/
theorem witness_TranslatingAndLoadingCommandsFrame :
    exec (loadForm .half true 0x101) State.reset = .next (after (.ldh true 0x101) State.reset)
      ∧ exec (.fetch true 0x100) State.reset = .next (after (.fetch true 0x100) State.reset)
      ∧ exec (xlatForm true true 0x100) State.reset = .next (after (.xlatPW 0x100) State.reset)
      ∧ (after (.fetch true 0x100) State.reset).response = some (.ok 0)
      ∧ walk State.reset 0x100 false true = .done 0x100 ∧ route State.reset.cfg 0x100 = .ram :=
  ⟨exec_after rfl _, exec_after rfl _, exec_after rfl _, by decide⟩

/-- A store to RAM, one that is misaligned, one to a peripheral. -/
theorem witness_StoringCommandsFrame :
    exec (storeForm .word true 0x100 5) State.reset = .next (after (.stw true 0x100 5) State.reset)
      ∧ walk State.reset 0x100 true true = .done 0x100
      ∧ exec (storeForm .half true 0x101 5) State.reset = .next (after (.sth true 0x101 5) State.reset)
      ∧ walk State.reset 0x101 true true = .done 0x101 ∧ (0x101 : Word).toNat % widthBytes .half ≠ 0
      ∧ (after (.sth true 0x101 5) State.reset).response = some (.abort ⟨.alignment, true, false⟩)
      ∧ exec (storeForm .byte true 0x10000001 5) State.reset = .next (after (.stb true 0x10000001 5) State.reset) :=
  ⟨exec_after rfl _, by decide, exec_after rfl _, by decide, by decide, by decide, exec_after rfl _⟩

theorem witness_OnlyStoresChangeMemory :
    exec (.cpwDacr 7) State.reset = .next (after (.cpwDacr 7) State.reset) ∧ isStore (.cpwDacr 7) = false :=
  ⟨exec_after rfl _, rfl⟩

/-- A command that writes no field of the context, and so meets every clause's premise. -/
theorem witness_OnlyItsWritersChangeTheTranslationContext :
    exec .irqpend State.reset = .next (after .irqpend State.reset) ∧ (∀ v, Instr.irqpend ≠ .cpwSctlr v)
      ∧ (∀ v, Instr.irqpend ≠ .cpwTtbr0 v ∧ Instr.irqpend ≠ .cpwTtbcr v) ∧ (∀ v, Instr.irqpend ≠ .cpwTtbr1 v)
      ∧ (∀ v, Instr.irqpend ≠ .cpwDacr v) ∧ ∀ v, Instr.irqpend ≠ .cpwContextidr v := by
  refine ⟨exec_after rfl _, ?_, ?_, ?_, ?_, ?_⟩ <;> intro v <;> simp

theorem witness_CprReturnsTheRawValue : State.reset.live := rfl
theorem witness_CpwOfAFaultRegisterStores : (rstRam [(0, 1)]).live := rfl
theorem witness_CpwSctlrDerivesTheEnables :
    State.reset.live ∧ (0x01000001 : Word).getLsbD 24 = true ∧ (0x00002003 : Word).getLsbD 24 = false := ⟨rfl, by decide⟩
theorem witness_CpwTtbrDerivesTheBase : (section0 4 0x00000C22).live ∧ (section0 4 0x00000C22).Inv :=
  ⟨rfl, by unfold State.Inv; decide⟩
theorem witness_CpwTtbcrRederivesTheBase :
    State.reset.live ∧ (7 : Word).extractLsb' 0 3 ≠ 0 ∧ (1 : Word).extractLsb' 0 3 ≠ 0 ∧ (8 : Word).extractLsb' 0 3 = 0 :=
  ⟨rfl, by decide⟩
theorem witness_CpwDacrDerivesAllSixteenRights : (section0 4 0).live := rfl
theorem witness_CpwContextidrTakesTheAsid : (section0 4 0).live := rfl
theorem witness_UnknownKeyIsFatal :
    State.reset.live ∧ otherKey 0 = true ∧ extraSlot State.reset.cfg 0 = none ∧ otherKey 0x3FFF = true := ⟨rfl, by decide⟩
theorem witness_PolicyViolationIsFatal :
    (rstSlot .wo .storage .storage).live
      ∧ extraSlot (rstSlot .wo .storage .storage).cfg 1 = some ⟨1, .wo, .storage, .storage⟩
      ∧ extraSlot (rstSlot .ro .storage .storage).cfg 1 = some ⟨1, .ro, .storage, .storage⟩ := ⟨rfl, by decide⟩

/-- A constant that cannot be written; storage; an ignored write. -/
theorem witness_ExtraSlotAccessesComplete :
    (rstSlot .rw .storage .storage).live
      ∧ extraSlot (rstSlot .ro (.constant 7) .ignore).cfg 1 = some ⟨1, .ro, .constant 7, .ignore⟩
      ∧ extraSlot (rstSlot .rw .storage .storage).cfg 1 = some ⟨1, .rw, .storage, .storage⟩
      ∧ extraSlot (rstSlot .wo .storage .ignore).cfg 1 = some ⟨1, .wo, .storage, .ignore⟩
      ∧ extraOk (rstSlot .rw .storage .storage).cp = true := ⟨rfl, by decide⟩

/-- A duplicate, a full queue, room; the last legal id. -/
theorem witness_IrqraiseQueuesTheLine :
    (rstIc (some 2) [1, 63] [] false).live ∧ (63 : Irq).toNat < (rstIc (some 2) [1, 63] [] false).cfg.irqCount
      ∧ (rstIc (some 2) [1, 63] [] false).ic.pending.getLast? = some 63
      ∧ ((rstIc (some 2) [1, 2] [] false).ic.pending.getLast? ≠ some 63
        ∧ (rstIc (some 2) [1, 2] [] false).cfg.irqQueueDepth = some (rstIc (some 2) [1, 2] [] false).ic.pending.length)
      ∧ (rstIc none [1, 2] [] false).ic.pending.getLast? ≠ some 63
      ∧ (rstIc none [1, 2] [] false).cfg.irqQueueDepth ≠ some (rstIc none [1, 2] [] false).ic.pending.length :=
  ⟨rfl, by decide⟩

theorem witness_IrqpendReportsTheLevelOutput : (rstIc none [1] [] true).live := rfl

/-- Nothing pending; a full `acknowledged`; room. -/
theorem witness_IrqacceptTakesTheOldest :
    (rstIc (some 1) [] [] false).live ∧ (rstIc (some 1) [] [] false).ic.pending = []
      ∧ ((rstIc (some 1) [2] [1] false).ic.pending = [2]
        ∧ (rstIc (some 1) [2] [1] false).cfg.irqQueueDepth = some (rstIc (some 1) [2] [1] false).ic.acknowledged.length)
      ∧ (rstIc (some 1) [2] [] false).ic.pending = [2]
      ∧ (rstIc (some 1) [2] [] false).cfg.irqQueueDepth ≠ some (rstIc (some 1) [2] [] false).ic.acknowledged.length :=
  ⟨rfl, by decide⟩

/-- The oldest id, another one, nothing acknowledged. -/
theorem witness_IrqeoiCompletesTheOldest :
    (rstIc none [] [1, 2] false).live ∧ (1 : Irq).toNat < (rstIc none [] [1, 2] false).cfg.irqCount
      ∧ (rstIc none [] [1, 2] false).ic.acknowledged = 1 :: [2]
      ∧ (rstIc none [] [1, 2] false).ic.acknowledged.head? ≠ some 2 ∧ (rstIc none [] [] false).ic.acknowledged.head? ≠ some 1 :=
  ⟨rfl, by decide⟩

theorem witness_IrqenableSetsTheEnable : (rstIc none [1] [2] false).live := rfl

/-- A state in which a Fatal is kept. -/
theorem witness_AHaltedBlockChangesNothing : (after (.cprOther 0) State.reset).fatal ≠ none := by decide

/-- The first Fatal, and a command after it. -/
theorem witness_AFatalChangesOnlyTheFatalRecord :
    exec (.cprOther 0) State.reset = .next (after (.cprOther 0) State.reset)
      ∧ (after (.cprOther 0) State.reset).response = some (.fatal .unknownRegister) ∧ State.reset.fatal = none
      ∧ exec .irqpend (after (.cprOther 0) State.reset)
        = .next ((after (.cprOther 0) State.reset).respond (.fatal .halted))
      ∧ (after (.cprOther 0) State.reset).fatal ≠ none :=
  ⟨exec_after rfl _, by decide, rfl, exec_halted (by decide) _, by decide⟩

theorem witness_AbortsArePrecise :
    exec (.fetch true 0x8002) State.reset = .next (after (.fetch true 0x8002) State.reset)
      ∧ (after (.fetch true 0x8002) State.reset).response = some (.abort ⟨.alignment, false, true⟩)
      ∧ exec (.ldh true 0x101) State.reset = .next (after (.ldh true 0x101) State.reset)
      ∧ (after (.ldh true 0x101) State.reset).response = some (.abort ⟨.alignment, false, false⟩) :=
  ⟨exec_after rfl _, by decide, exec_after rfl _, by decide⟩

/-- The top of a step with an interrupt pending; the acceptance. -/
theorem witness_InterruptsAreAcceptedOnlyWhenAllThreeHold :
    (rstIn .top [.sched (.poll false)]).live ∧ (rstIn .top [.sched (.poll false)]).inbox = [.sched (.poll false)]
      ∧ (rstIn .top [.sched (.poll false)]).phase = .top
      ∧ { rstIc (some 1) [5] [] true with phase := .accept, inbox := [.sched (.accept 0x18)] }.live
      ∧ { rstIc (some 1) [5] [] true with phase := .accept, inbox := [.sched (.accept 0x18)] }.ic.pending = [5]
      ∧ { rstIc (some 1) [5] [] true with phase := .accept, inbox := [.sched (.accept 0x18)] }.cfg.irqQueueDepth
        ≠ some { rstIc (some 1) [5] [] true with phase := .accept, inbox := [.sched (.accept 0x18)] }.ic.acknowledged.length :=
  ⟨rfl, rfl, rfl, rfl, rfl, by decide⟩

/-- A halted core at the top of its step with nothing pending; and the acceptance that wakes it. -/
theorem witness_AHaltedCoreOnlyPolls :
    ((rstIn .top [.sched (.poll false)]).setHalted true).live
      ∧ ((rstIn .top [.sched (.poll false)]).setHalted true).phase = .top
      ∧ ((rstIn .top [.sched (.poll false)]).setHalted true).sched.halted = true
      ∧ ¬(((rstIn .top [.sched (.poll false)]).setHalted true).ic.enabled = true
        ∧ ((rstIn .top [.sched (.poll false)]).setHalted true).ic.pending ≠ []) := ⟨rfl, rfl, rfl, by decide⟩

theorem witness_AHaltedCoreOnlyPolls_wakes :
    ∃ t, step ({ rstIc none [5] [] true with phase := .accept, inbox := [.sched (.accept 0x18)] }.setHalted true) = .next t
      ∧ t.sched.halted = false := by
  rw [step_sched rfl, schedMove, schedAccept_takes (irq := 5) (q := []) _ rfl rfl rfl rfl]
  exact ⟨_, rfl, by decide⟩

/-- A misaligned FETCH of the Scheduler; a load of the executing core that aborts; the data abort's redirection. -/
theorem witness_AbortsGoToTheCoresEntries :
    ((rstIn .fetch [.sched (.fetch true 0xC)]).setPc 0x8002).phase = .fetch
      ∧ ((rstIn .fetch [.sched (.fetch true 0xC)]).setPc 0x8002).sched.pc = 0x8002
      ∧ exec (.fetch true 0x8002) ((rstIn .fetch []).setPc 0x8002) = .next (after (.fetch true 0x8002) ((rstIn .fetch []).setPc 0x8002))
      ∧ (after (.fetch true 0x8002) ((rstIn .fetch []).setPc 0x8002)).response = some (.abort ⟨.alignment, false, true⟩)
      ∧ (rstIn .execute [.command ⟨0x11400000, 0x101, 0⟩]).phase = .execute
      ∧ decodeCommand ⟨0x11400000, 0x101, 0⟩ = .ok (.ldh true 0x101)
      ∧ exec (.ldh true 0x101) (rstIn .execute []) = .next (after (.ldh true 0x101) (rstIn .execute []))
      ∧ (after (.ldh true 0x101) (rstIn .execute [])).response = some (.abort ⟨.alignment, false, false⟩)
      ∧ (rstIn .dataAborted [.sched (.finish (.dataAbort 0x10))]).phase = .dataAborted
      ∧ (rstIn .prefetchAborted [.sched (.finish (.prefetchAbort 0xC))]).phase = .prefetchAborted :=
  ⟨rfl, rfl, exec_after rfl _, by decide, rfl, by decide, exec_after rfl _, by decide, rfl, rfl⟩

/-- An XLAT and a FETCH of the executing core that abort are redirected (60_exceptions.md R134). -/
theorem witness_AbortsGoToTheCoresEntries_xlat_and_fetch :
    (stepped { section0 4 0 with phase := .execute, inbox := [.command ⟨0, 0x80000000, 0⟩] }).phase = .dataAborted
      ∧ (stepped (rstIn .execute [.command ⟨0x12C00000, 0x8002, 0⟩])).phase = .prefetchAborted := by decide

/-- A complete instruction; one whose condition fails. -/
theorem witness_StopConditionsOfStepEight :
    (rstIn .execute [.sched (.finish (.completed (some 0x9000) true false))]).phase = .execute
      ∧ (rstIn .decode [.sched (.decoded .conditionFails)]).phase = .decode := ⟨rfl, rfl⟩

/-- A running step at its end: the executed count is 999, the batch has 3 steps left. -/
def ending (remaining : Option Nat) (opts : SchedOptions) (target : Option Word) (call : Bool) : State :=
  { rstIn .execute [.sched (.finish (.completed target call false))] with
    batchLeft := 3
    sched := { ExecState.reset Config.default with running := true, icount := 999, remaining := remaining, opts := opts } }

/-- Each of the four stop conditions at its boundary: the count reached, and one short of it; a branch and a call with the
option, and without one; the countdown at its last step, and one before it (60_exceptions.md R142). -/
theorem witness_StopConditionsOfStepEight_boundaries :
    (stepped (ending none { SchedOptions.none with stopCounter := some 1000 } none false)).sched.running = false
      ∧ (stepped (ending none { SchedOptions.none with stopCounter := some 1001 } none false)).sched.running = true
      ∧ (stepped (ending none { SchedOptions.none with stopAtEveryBranch := true } (some 0x9000) false)).sched.running = false
      ∧ (stepped (ending none { SchedOptions.none with stopAtEveryBranch := true } none true)).sched.running = true
      ∧ (stepped (ending none { SchedOptions.none with stopAtEveryFunccall := true } none true)).sched.running = false
      ∧ (stepped (ending none { SchedOptions.none with stopAtEveryFunccall := true } (some 0x9000) false)).sched.running = true
      ∧ (stepped (ending (some 1) .none none false)).sched.running = false
      ∧ (stepped (ending (some 2) .none none false)).sched.running = true := by decide

/-- A command that ends in the first Fatal; then one after it. -/
theorem witness_AFatalStopsTheRunForGood :
    ∃ t, step (rstIn .execute [.command ⟨0x40000000, 0, 0⟩]) = .next t ∧ (rstIn .execute [.command ⟨0x40000000, 0, 0⟩]).fatal = none
      ∧ t.fatal = some ⟨.unknownRegister, 0⟩ ∧ t.sched.running = false ∧ ∀ m, PortEvent.command ⟨0x40000000, 0, 0⟩ ≠ .host m := by
  rw [step_command rfl, runCommand_ok (i := .cprOther 0) (by decide) (exec_after rfl _)]
  exact ⟨_, rfl, rfl, by decide, by decide, fun m => by simp⟩

theorem witness_AFatalStopsTheRunForGood_after_it :
    ∃ t, step { after (.cprOther 0) State.reset with inbox := [.sched .start] } = .next t
      ∧ { after (.cprOther 0) State.reset with inbox := [.sched .start] }.fatal ≠ none
      ∧ { after (.cprOther 0) State.reset with inbox := [.sched .start] }.sched.running = false
      ∧ ∀ m, PortEvent.sched .start ≠ .host m := by
  rw [step_sched rfl]
  exact ⟨_, rfl, by decide, by decide, fun m => by simp⟩

/-- A batch that may begin, one that may not, a cancellation. -/
theorem witness_BatchesAreBoundedAndCancelIsSeenAtTheTop :
    (rstIn .between [.sched .beginBatch]).phase = .between ∧ (rstIn .between [.sched .beginBatch]).sched.running = false
      ∧ ((rstIn .between [.sched .beginBatch]).setRunning true).sched.running = true
      ∧ (rstIn .execute [.sched .cancel]).inbox = [.sched .cancel] := ⟨rfl, rfl, rfl, rfl⟩

/-- A batch about to begin, with a countdown. -/
def beginning (remaining : Nat) : State :=
  { rstIn .between [.sched .beginBatch] with
    sched := { ExecState.reset Config.default with running := true, remaining := some remaining } }

/-- A step about to end in a redirection, with a number of steps left. -/
def redirecting (phase : SchedPhase) (m : SchedMove) (left : Nat) : State := { rstIn phase [.sched m] with batchLeft := left }

/-- A batch of size 0 begins no step, one of size 1 begins one, and the budget bounds a longer one (60_exceptions.md R137);
the last step of a batch and one that is not the last, for each redirection and for a complete instruction. -/
theorem witness_BatchesAreBoundedAndCancelIsSeenAtTheTop_boundaries :
    (stepped (beginning 0)).phase = .between ∧ (stepped (beginning 0)).batchLeft = 0
      ∧ (stepped (beginning 1)).phase = .top ∧ (stepped (beginning 1)).batchLeft = 1
      ∧ (stepped (beginning 1001)).batchLeft = 1000
      ∧ (stepped (redirecting .decode (.decoded (.undefined 4)) 1)).phase = .between
      ∧ (stepped (redirecting .decode (.decoded (.undefined 4)) 2)).phase = .top
      ∧ (stepped (redirecting .execute (.finish (.supervisorCall 8)) 2)).batchLeft = 1
      ∧ (stepped (redirecting .dataAborted (.finish (.dataAbort 0x10)) 1)).phase = .between
      ∧ (stepped (redirecting .prefetchAborted (.finish (.prefetchAbort 0xC)) 2)).batchLeft = 1
      ∧ (stepped ((redirecting .fetch (.fetch true 0xC) 1).setPc 0x8002)).phase = .between
      ∧ (stepped ((redirecting .fetch (.fetch true 0xC) 2).setPc 0x8002)).batchLeft = 1
      ∧ (stepped (ending none .none none false)).phase = .top ∧ (stepped (ending none .none none false)).batchLeft = 2 := by
  decide

/-- A snapshot of a state with the invariant restored over another; one that breaks R35. -/
theorem witness_RestoreGivesBackTheSnapshot :
    (section0 4 0x00000C22).Inv
      ∧ (rstIn .between [.host (.restore (takeSnapshot (section0 4 0x00000C22)))]).cfg = (section0 4 0x00000C22).cfg
      ∧ (rstIn .between [.host (.restore (takeSnapshot (section0 4 0x00000C22)))]).phase = .between
      ∧ agrees Config.default { TranslationContext.reset with enabled := true } (ControlRegs.reset Config.default) = false :=
  ⟨by unfold State.Inv; decide, rfl, rfl, by decide⟩

/-- Two states with the same block and different inputs. -/
theorem witness_SameBlockGivesSameAnswers :
    SameBlock State.reset (rstIn .execute [.raise 5]) ∧ SamePeripherals State.reset (rstIn .execute [.raise 5])
      ∧ exec (.ldw true 0x100) State.reset = .next (after (.ldw true 0x100) State.reset)
      ∧ exec (.ldw true 0x100) (rstIn .execute [.raise 5]) = .next (after (.ldw true 0x100) (rstIn .execute [.raise 5])) :=
  ⟨⟨rfl, rfl, rfl, rfl, rfl, rfl⟩, ⟨rfl, rfl⟩, exec_after rfl _, exec_after rfl _⟩

end Sys2Proof.Tests
end

section
/-! Where descriptors lie and how they are read (20_memory.md R50): their addresses are 4-aligned, a descriptor in RAM is
a little-endian word, and a descriptor elsewhere ends the walk in a Fatal at the level that reads it. -/

namespace Sys2Proof.Machine

/-! ### Aligned words -/

theorem or_toNat_mod_four {a b : Word} (ha : a.toNat % 4 = 0) (hb : b.toNat % 4 = 0) : (a ||| b).toNat % 4 = 0 := by
  rw [BitVec.toNat_or, Nat.or_mod_two_pow (n := 2), ha, hb, Nat.or_zero]

theorem and_toNat_mod_four (a : Word) {m : Word} (hm : m.toNat % 4 = 0) : (a &&& m).toNat % 4 = 0 := by
  rw [BitVec.toNat_and, Nat.and_mod_two_pow (n := 2), hm, Nat.and_zero]

theorem shiftLeft_two_toNat_mod_four (a : Word) : (a <<< 2).toNat % 4 = 0 := by
  rw [BitVec.toNat_shiftLeft, Nat.shiftLeft_eq]
  omega

/-! ### The addresses of the descriptors -/

/-- The derived fields as functions of the raw slots (10_state.md R35). -/
theorem agrees_iff (c : Config) (tc : TranslationContext) (cp : ControlRegs) :
    agrees c tc cp = true ↔
      (tc.enabled = cp.sctlr.getLsbD 0 ∧ tc.checkUnaligned = cp.sctlr.getLsbD 1 ∧ tc.vectorHigh = cp.sctlr.getLsbD 13)
        ∧ cp.sctlr.getLsbD c.sctlrFixedBit.val = true
        ∧ (tc.splitWidth = splitField cp.ttbcr ∧ tc.splitWidth = 0)
        ∧ (tc.tableBase0 = tableBase16K cp.ttbr0 ∧ tc.tableBase1 = tableBase16K cp.ttbr1)
        ∧ tc.domainRights = decodeDacr cp.dacr
        ∧ tc.asid = asidField cp.contextidr := by
  simp only [agrees, Bool.and_eq_true, beq_iff_eq, and_assoc]

theorem State.Inv.tableBase0_eq {s : State} (h : s.Inv) : s.tc.tableBase0 = tableBase16K s.cp.ttbr0 := by
  obtain ⟨-, hagrees, -⟩ := h
  obtain ⟨-, -, -, ⟨hbase, -⟩, -⟩ := (agrees_iff _ _ _).mp hagrees
  exact hbase

theorem l1Addr_toNat_mod_four {base : Word} (h : base.toNat % 4 = 0) (va : Word) : (l1Addr base va).toNat % 4 = 0 :=
  or_toNat_mod_four h (shiftLeft_two_toNat_mod_four _)

theorem l2Addr_toNat_mod_four (d1 va : Word) : (l2Addr d1 va).toNat % 4 = 0 :=
  or_toNat_mod_four (and_toNat_mod_four d1 (by decide)) (shiftLeft_two_toNat_mod_four _)

/-- The invariant's table base is a multiple of 16 KiB, so a descriptor of its table is aligned (40_translation.md R78). -/
theorem State.Inv.l1Addr_toNat_mod_four {s : State} (h : s.Inv) (va : Word) :
    (l1Addr s.tc.tableBase0 va).toNat % 4 = 0 := by
  rw [h.tableBase0_eq]
  exact Machine.l1Addr_toNat_mod_four (and_toNat_mod_four _ (by decide)) va

/-! ### Reading a descriptor, by its route -/

theorem descRead_ram {s : State} {addr : Word} (h : route s.cfg addr = .ram) : descRead s addr = .ok (memRead s addr .word) := by
  simp only [descRead, h]

theorem descRead_periph {s : State} {addr off : Word} {id : Nat} (h : route s.cfg addr = .periph id off) :
    descRead s addr = .error .tableNotInRam := by simp only [descRead, h]

theorem descRead_none {s : State} {addr : Word} (h : route s.cfg addr = .none) :
    descRead s addr = .error .unmappedAddress := by simp only [descRead, h]

/-! ### Where the walk goes, by what it reads -/

theorem walk_l1_error {s : State} {va : Word} {r : FatalReason} (hon : s.tc.enabled = true)
    (h : descRead s (l1Addr s.tc.tableBase0 va) = .error r) (w p : Bool) :
    walk s va w p = .fatal r (l1Addr s.tc.tableBase0 va) := by
  simp only [walk_on hon, walkTable, h]

/-- A page-table descriptor leads to the second level, with nothing checked before (40_translation.md R82). -/
theorem walk_pageTable {s : State} {va d1 : Word} (hon : s.tc.enabled = true)
    (h : descRead s (l1Addr s.tc.tableBase0 va) = .ok d1) (hd : d1.extractLsb' 0 2 = 1) (w p : Bool) :
    walk s va w p = walkPage s d1 va w p := by
  have hformat : (descFormat d1).toNat = 1 := congrArg BitVec.toNat hd
  simp only [walk_on hon, walkTable, h, hformat]

theorem walkPage_l2_error {s : State} {d1 va : Word} {r : FatalReason} (h : descRead s (l2Addr d1 va) = .error r)
    (w p : Bool) : walkPage s d1 va w p = .fatal r (l2Addr d1 va) := by
  simp only [walkPage, h]

theorem translate_l1_error {s : State} {va : Word} {r : FatalReason} (hon : s.tc.enabled = true)
    (h : descRead s (l1Addr s.tc.tableBase0 va) = .error r) (w p f : Bool) :
    translate va w p f s = .fatal r (l1Addr s.tc.tableBase0 va) s :=
  translate_fatal (walk_l1_error hon h w p) f

theorem translate_l2_error {s : State} {va d1 : Word} {r : FatalReason} (hon : s.tc.enabled = true)
    (h1 : descRead s (l1Addr s.tc.tableBase0 va) = .ok d1) (hd : d1.extractLsb' 0 2 = 1)
    (h2 : descRead s (l2Addr d1 va) = .error r) (w p f : Bool) : translate va w p f s = .fatal r (l2Addr d1 va) s :=
  translate_fatal ((walk_pageTable hon h1 hd w p).trans (walkPage_l2_error h2 w p)) f

/-- Settles O16: the route of a descriptor's address decides what reading it gives, and a failed read at either level is
the walk's Fatal, with that address as info and the state as it was. -/
theorem descriptorsAreAlignedRamWords : Obligations.DescriptorsAreAlignedRamWords := by
  unfold Obligations.DescriptorsAreAlignedRamWords
  refine ⟨fun s va hinv => hinv.l1Addr_toNat_mod_four va, l2Addr_toNat_mod_four, ?_, ?_⟩
  · intro s addr hram
    exact ⟨_, descRead_ram hram, memRead_toNat s addr .word⟩
  · intro s va w p f hon l1
    refine ⟨?firstPeriph, ?firstNone, ?second⟩
    case firstPeriph => exact fun id off h => translate_l1_error hon (descRead_periph h) w p f
    case firstNone => exact fun h => translate_l1_error hon (descRead_none h) w p f
    case second =>
      intro d1 h1 hd l2
      exact ⟨fun id off h => translate_l2_error hon h1 hd (descRead_periph h) w p f,
        fun h => translate_l2_error hon h1 hd (descRead_none h) w p f⟩

end Sys2Proof.Machine
end

section
/-! What the walk finds at each format of the two descriptors (40_translation.md R79 to R85), what the domain and the AP
bits decide at a mapping (R86 to R88), and the XLAT commands as the walk's answer (R94). -/

namespace Sys2Proof.Machine

/-! ### The check at a mapping -/

theorem mapped_denied {right : DomainRight} (h : right = .noAccess ∨ right = .reserved) (ap2 : Bool) (ap10 : BitVec 2)
    (l : Level) (w p : Bool) (va pa : Word) : mapped right ap2 ap10 l w p va pa = .fault (domainFault l) := by
  obtain rfl | rfl := h
  · exact mapped_noAccess ..
  · exact mapped_reserved ..

theorem mapped_client_reservedAP {ap2 : Bool} {ap10 : BitVec 2} (h : ap2 = true ∧ ap10 = 0) (l : Level) (w p : Bool)
    (va pa : Word) : mapped .client ap2 ap10 l w p va pa = .fatal .reservedAP va := by
  rw [mapped_client, if_pos h]

theorem mapped_client_forbidden {ap2 : Bool} {ap10 : BitVec 2} {w p : Bool} (h : ¬(ap2 = true ∧ ap10 = 0))
    (hno : permitted ap2 ap10 w p = false) (l : Level) (va pa : Word) :
    mapped .client ap2 ap10 l w p va pa = .fault (permFault l) := by
  rw [mapped_client, if_neg h, if_neg (ne_true_of_eq_false hno)]

theorem mapped_client_permitted {ap2 : Bool} {ap10 : BitVec 2} {w p : Bool} (h : ¬(ap2 = true ∧ ap10 = 0))
    (hyes : permitted ap2 ap10 w p = true) (l : Level) (va pa : Word) :
    mapped .client ap2 ap10 l w p va pa = .done pa := by
  rw [mapped_client, if_neg h, if_pos hyes]

theorem mapped_of_grants {right : DomainRight} {ap2 : Bool} {ap10 : BitVec 2} {w p : Bool} (h : grants right ap2 ap10 w p)
    (l : Level) (va pa : Word) : mapped right ap2 ap10 l w p va pa = .done pa := by
  obtain rfl | ⟨rfl, hap, hyes⟩ := h
  · exact mapped_manager ..
  · exact mapped_client_permitted hap hyes l va pa

/-- At a mapping of either level the domain decides first, then the AP bits (40_translation.md R86, R88). -/
theorem translate_of_walk_mapped {s : State} {va pa : Word} {w p : Bool} {right : DomainRight} {ap2 : Bool}
    {ap10 : BitVec 2} {l : Level} (hwalk : walk s va w p = mapped right ap2 ap10 l w p va pa) (f : Bool) :
    ((right = .noAccess ∨ right = .reserved) →
      translate va w p f s = .abort ⟨domainFault l, w, f⟩ (recorded s va (faultCode (domainFault l)) w))
    ∧ (right = .manager → translate va w p f s = .ok pa s)
    ∧ (right = .client → ap2 = true ∧ ap10 = 0 → translate va w p f s = .fatal .reservedAP va s)
    ∧ (right = .client → ¬(ap2 = true ∧ ap10 = 0) → permitted ap2 ap10 w p = false →
      translate va w p f s = .abort ⟨permFault l, w, f⟩ (recorded s va (faultCode (permFault l)) w))
    ∧ (right = .client → ¬(ap2 = true ∧ ap10 = 0) → permitted ap2 ap10 w p = true → translate va w p f s = .ok pa s) := by
  refine ⟨?denied, ?manager, ?reservedAP, ?forbidden, ?permitted⟩
  case denied => exact fun h => translate_fault (hwalk.trans (mapped_denied h ..)) f
  case manager =>
    rintro rfl
    exact translate_done (hwalk.trans (mapped_manager ..)) f
  case reservedAP =>
    rintro rfl hap
    exact translate_fatal (hwalk.trans (mapped_client_reservedAP hap ..)) f
  case forbidden =>
    rintro rfl hap hno
    exact translate_fault (hwalk.trans (mapped_client_forbidden hap hno ..)) f
  case permitted =>
    rintro rfl hap hyes
    exact translate_done (hwalk.trans (mapped_client_permitted hap hyes ..)) f

/-! ### The second level, by the format of its descriptor -/

theorem walkPage_transPage {s : State} {d1 d2 va : Word} (h : descRead s (l2Addr d1 va) = .ok d2)
    (hd : d2.extractLsb' 0 2 = 0) (w p : Bool) : walkPage s d1 va w p = .fault .transPage := by
  have hformat : (descFormat d2).toNat = 0 := congrArg BitVec.toNat hd
  simp only [walkPage, h, hformat]

theorem walkPage_largePage {s : State} {d1 d2 va : Word} (h : descRead s (l2Addr d1 va) = .ok d2)
    (hd : d2.extractLsb' 0 2 = 1) (w p : Bool) : walkPage s d1 va w p = .fatal .largePage va := by
  have hformat : (descFormat d2).toNat = 1 := congrArg BitVec.toNat hd
  simp only [walkPage, h, hformat]

theorem walkPage_smallPage {s : State} {d1 d2 va : Word} (h : descRead s (l2Addr d1 va) = .ok d2)
    (hd : d2.extractLsb' 0 2 = 2 ∨ d2.extractLsb' 0 2 = 3) (w p : Bool) :
    walkPage s d1 va w p
      = mapped (domainRight s.tc (d1.extractLsb' 5 4)) (d2.getLsbD 9) (d2.extractLsb' 4 2) .second w p va (pagePa d2 va) := by
  have hformat : (descFormat d2).toNat = 2 ∨ (descFormat d2).toNat = 3 := hd.imp (congrArg BitVec.toNat) (congrArg BitVec.toNat)
  obtain hformat | hformat := hformat <;> simp only [walkPage, h, hformat, descDomain, pageAp2, pageAp10]

/-! ### The first level, by the format of its descriptor -/

section
variable {s : State} {va d1 : Word} (hon : s.tc.enabled = true) (h1 : descRead s (l1Addr s.tc.tableBase0 va) = .ok d1)
include hon h1

theorem walk_transSection (hd : d1.extractLsb' 0 2 = 0 ∨ d1.extractLsb' 0 2 = 3) (w p : Bool) :
    walk s va w p = .fault .transSection := by
  have hformat : (descFormat d1).toNat = 0 ∨ (descFormat d1).toNat = 3 := hd.imp (congrArg BitVec.toNat) (congrArg BitVec.toNat)
  obtain hformat | hformat := hformat <;> simp only [walk_on hon, walkTable, h1, hformat]

theorem walk_supersection (hd : d1.extractLsb' 0 2 = 2) (hsuper : d1.getLsbD 18 = true) (w p : Bool) :
    walk s va w p = .fatal .supersection va := by
  have hformat : (descFormat d1).toNat = 2 := congrArg BitVec.toNat hd
  simp only [walk_on hon, walkTable, h1, hformat, isSupersection, hsuper, if_true]

theorem walk_section (hd : d1.extractLsb' 0 2 = 2) (hsuper : d1.getLsbD 18 = false) (w p : Bool) :
    walk s va w p
      = mapped (domainRight s.tc (d1.extractLsb' 5 4)) (d1.getLsbD 15) (d1.extractLsb' 10 2) .first w p va
        (sectionPa d1 va) := by
  have hformat : (descFormat d1).toNat = 2 := congrArg BitVec.toNat hd
  simp only [walk_on hon, walkTable, h1, hformat, isSupersection, hsuper, Bool.false_eq_true, if_false, descDomain,
    sectionAp2, sectionAp10]

theorem walk_smallPage {d2 : Word} (hd1 : d1.extractLsb' 0 2 = 1) (h2 : descRead s (l2Addr d1 va) = .ok d2)
    (hd2 : d2.extractLsb' 0 2 = 2 ∨ d2.extractLsb' 0 2 = 3) (w p : Bool) :
    walk s va w p
      = mapped (domainRight s.tc (d1.extractLsb' 5 4)) (d2.getLsbD 9) (d2.extractLsb' 4 2) .second w p va (pagePa d2 va) :=
  (walk_pageTable hon h1 hd1 w p).trans (walkPage_smallPage h2 hd2 w p)

end

/-! ### XLAT -/

theorem exec_xlat_done {s : State} {va pa : Word} {w p : Bool} (hl : s.live) (h : walk s va w p = .done pa) :
    exec (xlatForm p w va) s = .next (s.respond (.ok pa)) := by
  rw [exec_xlat hl, translate_done h, conclude_ok]

/-! ### The statements -/

/-- Settles O12: the walk ends at the section's mapping, and the check grants the access. -/
theorem xlatThroughASectionCompletes : Obligations.XlatThroughASectionCompletes := by
  unfold Obligations.XlatThroughASectionCompletes
  intro s va d1 p w hl hon h1 hd hsuper hgrants
  exact exec_xlat_done hl ((walk_section hon h1 hd hsuper w p).trans (mapped_of_grants hgrants ..))

/-- Settles O13: the walk ends at the small page's mapping, and the check grants the access. -/
theorem xlatThroughASmallPageCompletes : Obligations.XlatThroughASmallPageCompletes := by
  unfold Obligations.XlatThroughASmallPageCompletes
  intro s va d1 d2 p w hl hon h1 hd1 h2 hd2 hgrants
  exact exec_xlat_done hl ((walk_smallPage hon h1 hd1 h2 hd2 w p).trans (mapped_of_grants hgrants ..))

/-- Settles O14: at either level the walk ends at a mapping, where the domain decides first. -/
theorem domainIsCheckedBeforePermission : Obligations.DomainIsCheckedBeforePermission := by
  unfold Obligations.DomainIsCheckedBeforePermission
  intro s va d1 w p f hon h1 right
  refine ⟨?atSection, ?atSmallPage⟩
  case atSection => exact fun hd hsuper => translate_of_walk_mapped (walk_section hon h1 hd hsuper w p) f
  case atSmallPage => exact fun d2 hd1 h2 hd2 => translate_of_walk_mapped (walk_smallPage hon h1 hd1 h2 hd2 w p) f

/-- Settles O15: one walk lemma for each format of each descriptor. -/
theorem descriptorFormatsDecideTheWalk : Obligations.DescriptorFormatsDecideTheWalk := by
  unfold Obligations.DescriptorFormatsDecideTheWalk
  intro s va d1 w p f hon h1 right
  refine ⟨?fault, ?supersection, ?sectionMapping, ?pageTable, ?second⟩
  case fault => exact fun hd => translate_fault (walk_transSection hon h1 hd w p) f
  case supersection => exact fun hd hsuper => translate_fatal (walk_supersection hon h1 hd hsuper w p) f
  case sectionMapping => exact fun hd hsuper => walk_section hon h1 hd hsuper w p
  case pageTable => exact fun hd => walk_pageTable hon h1 hd w p
  case second =>
    intro d2 hd1 h2
    have hpage := walk_pageTable hon h1 hd1 w p
    exact ⟨fun hd2 => translate_fault (hpage.trans (walkPage_transPage h2 hd2 w p)) f,
      fun hd2 => translate_fatal (hpage.trans (walkPage_largePage h2 hd2 w p)) f,
      fun hd2 => walk_smallPage hon h1 hd1 h2 hd2 w p⟩

/-- Settles O11: with the enable clear the walk ends at the address itself. -/
theorem translationOffIsTheIdentity : Obligations.TranslationOffIsTheIdentity := by
  unfold Obligations.TranslationOffIsTheIdentity
  intro s a p w hoff
  have hwalk : walk s a w p = .done a := walk_off hoff a w p
  exact ⟨hwalk, translate_done hwalk, fun hl => exec_xlat_done hl hwalk⟩

/-- Settles O17: one lemma for each end of the walk. -/
theorem onlyAFaultOfTheWalkRecords : Obligations.OnlyAFaultOfTheWalkRecords := by
  unfold Obligations.OnlyAFaultOfTheWalkRecords
  intro s va w p f
  exact ⟨fun pa h => translate_done h f, fun st h => translate_fault h f, fun r i h => translate_fatal h f⟩

/-- Settles O18: the table's rows, read off the definitions. -/
theorem faultStatusCodes : Obligations.FaultStatusCodes := by
  unfold Obligations.FaultStatusCodes
  decide

/-- Settles O19: the table's rows, each evaluated at its four accesses. -/
theorem permissionTable : Obligations.PermissionTable := by
  unfold Obligations.PermissionTable
  decide

end Sys2Proof.Machine
end

section
/-! What the control-register commands do (41_cp15.md R95 to R108): each handler of a CPW by the cases of its value, each
access of a key that no named slot has by the slot's policy, and what a walk reads of the TranslationContext. -/

namespace Sys2Proof.Machine

/-! ### A command by the outcome of its body -/

theorem exec_of_body_ok {s t : State} {v : Word} (hl : s.live) (i : Instr) (h : bodyOf i s = .ok v t) :
    exec i s = .next (t.respond (.ok v)) := by rw [exec_live hl, h, conclude_ok]

/-- A handler that stores a raw value and derives fields from it changes nothing else (41_cp15.md R99). -/
theorem exec_of_body_derives {s : State} {cp : ControlRegs} {tc : TranslationContext} (hl : s.live) {i : Instr}
    (h : bodyOf i s = .ok 0 ((s.setCp cp).setTc tc)) :
    exec i s = .next { s with cp := cp, tc := tc, response := some (.ok 0) } := exec_of_body_ok hl i h

/-- In a live state a body that is fatal without a change becomes the kept Fatal (10_state.md R34). -/
theorem exec_of_body_fatal {s : State} {r : FatalReason} {info : Word} (hl : s.live) {i : Instr}
    (h : bodyOf i s = .fatal r info s) :
    exec i s = .next { s with fatal := some ⟨r, info⟩, response := some (.fatal r) } := by
  rw [exec_live hl, h, conclude_fatal, setFatal_none hl]
  rfl

/-! ### What a walk reads of the TranslationContext -/

/-- Only the enable, the first table base and the domain rights decide a walk (40_translation.md R93). -/
theorem walk_of_tc_agrees {s : State} {tc : TranslationContext} (henabled : tc.enabled = s.tc.enabled)
    (hbase : tc.tableBase0 = s.tc.tableBase0) (hrights : tc.domainRights = s.tc.domainRights) (va : Word) (w p : Bool) :
    walk { s with tc := tc } va w p = walk s va w p := by
  have hdesc : ∀ addr, descRead { s with tc := tc } addr = descRead s addr := fun _ => rfl
  simp only [walk, walkTable, walkPage, domainRight, henabled, hbase, hrights, hdesc]

/-! ### The fields a write derives -/

theorem extractLsb'_two_toNat (v : Word) (d : Nat) : (v.extractLsb' (2 * d) 2).toNat = v.toNat / 4 ^ d % 4 := by
  simp only [BitVec.extractLsb'_toNat, Nat.shiftRight_eq_div_pow, pow_mul, Nat.reducePow]

theorem State.Inv.splitWidth_eq_zero {s : State} (h : s.Inv) : s.tc.splitWidth = 0 := by
  obtain ⟨-, hagrees, -⟩ := h
  obtain ⟨-, -, ⟨-, hsplit⟩, -⟩ := (agrees_iff _ _ _).mp hagrees
  exact hsplit

/-- With the split width 0 the mask of TTBR0 clears bits [13:0], as TTBR1's does (41_cp15.md R101, R102). -/
theorem tableBase_zero (v : Word) : tableBase 0 v = tableBase16K v := rfl

/-! ### The handlers that refuse a value -/

theorem writeSctlr_vectored {v : Word} (h : v.getLsbD 24 = true) (s : State) :
    writeSctlr v s = .fatal .vectoredIrq v s := if_pos h

theorem writeSctlr_stored {v : Word} (h : v.getLsbD 24 = false) (s : State) :
    writeSctlr v s
      = .ok 0 ((s.setCp { s.cp with sctlr := sctlrStored s.cfg v }).setTc (deriveSctlr (sctlrStored s.cfg v) s.tc)) :=
  if_neg (Bool.eq_false_iff.mp h)

theorem writeTtbcr_split {v : Word} (h : splitField v ≠ 0) (s : State) :
    writeTtbcr v s = .fatal .unimplementedSplit v s := if_pos (bne_iff_ne.mpr h)

theorem writeTtbcr_stored {v : Word} (h : splitField v = 0) (s : State) :
    writeTtbcr v s
      = .ok 0 ((s.setCp { s.cp with ttbcr := v }).setTc
        { s.tc with splitWidth := 0, tableBase0 := tableBase16K s.cp.ttbr0 }) := if_neg (by simp [h])

/-! ### A key that no named slot has -/

theorem decode_wordK_cpr (key : Key) (a d : Word) : decode (wordK 4 key) a d = .ok (cprOfKey key) := by
  rw [decode_cpr (opField_wordK (.inl rfl) key), keyField_wordK (.inl rfl)]
  exact if_neg (by simp [reservedSet_wordK])

theorem decode_wordK_cpw (key : Key) (a d : Word) : decode (wordK 5 key) a d = .ok (cpwOfKey key d) := by
  rw [decode_cpw (opField_wordK (.inr rfl) key), keyField_wordK (.inr rfl)]
  exact if_neg (by simp [reservedSet_wordK])

section
variable {s : State} {key : Key}

theorem readOther_unknown (h : extraSlot s.cfg key = none) :
    readOther key s = .fatal .unknownRegister (key.setWidth 32) s := by simp only [readOther, h]

theorem writeOther_unknown (h : extraSlot s.cfg key = none) (v : Word) :
    writeOther key v s = .fatal .unknownRegister (key.setWidth 32) s := by simp only [writeOther, h]

variable {e : ExtraSlot} (hslot : extraSlot s.cfg key = some e)
include hslot

theorem readOther_constant (hp : e.policy ≠ .wo) {c : Word} (hr : e.read = .constant c) : readOther key s = .ok c s := by
  cases hpolicy : e.policy with
  | wo => exact absurd hpolicy hp
  | ro | rw => simp only [readOther, hslot, hpolicy, hr]

theorem readOther_storage (hp : e.policy ≠ .wo) (hr : e.read = .storage) :
    readOther key s = .ok (s.cp.readExtra key) s := by
  cases hpolicy : e.policy with
  | wo => exact absurd hpolicy hp
  | ro | rw => simp only [readOther, hslot, hpolicy, hr]

theorem writeOther_ignore (hp : e.policy ≠ .ro) (hw : e.write = .ignore) (v : Word) : writeOther key v s = .ok 0 s := by
  cases hpolicy : e.policy with
  | ro => exact absurd hpolicy hp
  | wo | rw => simp only [writeOther, hslot, hpolicy, hw]

theorem writeOther_storage (hp : e.policy ≠ .ro) (hw : e.write = .storage) (v : Word) :
    writeOther key v s = .ok 0 (s.setCp (s.cp.writeExtra key v)) := by
  cases hpolicy : e.policy with
  | ro => exact absurd hpolicy hp
  | wo | rw => simp only [writeOther, hslot, hpolicy, hw]

end

/-- A read of the key a write named, in storage of canonical form. -/
theorem readExtra_writeExtra_same {cp : ControlRegs} (h : extraOk cp = true) (key : Key) (v : Word) :
    (cp.writeExtra key v).readExtra key = v := sparseGet_set_same h key.toNat v 0

theorem readExtra_writeExtra_other (cp : ControlRegs) {key k : Key} (h : k ≠ key) (v : Word) :
    (cp.writeExtra key v).readExtra k = cp.readExtra k :=
  sparseGet_set_other cp.extra (mt BitVec.eq_of_toNat_eq h) v 0 0

/-! ### The statements -/

/-- Settles O39: the rights are those of `decodeDacr`, and the two bits of a domain are a base-4 digit of the value. -/
theorem cpwDacrDerivesAllSixteenRights : Obligations.CpwDacrDerivesAllSixteenRights := by
  unfold Obligations.CpwDacrDerivesAllSixteenRights
  intro s v hl
  refine ⟨decodeDacr v, exec_of_body_derives hl rfl, fun d => ?_⟩
  rw [decodeDacr_get, ← extractLsb'_two_toNat]
  generalize v.extractLsb' (2 * d.val) 2 = right
  rfl

/-- Settles O43: one lemma for each source of a read and each sink of a write. -/
theorem extraSlotAccessesComplete : Obligations.ExtraSlotAccessesComplete := by
  unfold Obligations.ExtraSlotAccessesComplete
  intro s key v e hl hslot hcanonical
  refine ⟨fun hp => ?read, fun hp hw => ?ignored, fun hp hw => ⟨(s.cp.writeExtra key v).extra, ?stored, ?same, ?other⟩⟩
  case read =>
    cases hread : e.read with
    | constant c => exact exec_of_body_ok hl _ (readOther_constant hslot hp hread)
    | storage => exact exec_of_body_ok hl _ (readOther_storage hslot hp hread)
  case ignored => exact exec_of_body_ok hl _ (writeOther_ignore hslot hp hw v)
  case stored => exact exec_of_body_ok hl (.cpwOther key v) (writeOther_storage hslot hp hw v)
  case same => exact readExtra_writeExtra_same hcanonical key v
  case other => exact fun k hk => readExtra_writeExtra_other s.cp hk v

/-- Settles O35: the body of each of the four stores the value and no more. -/
theorem cpwOfAFaultRegisterStores : Obligations.CpwOfAFaultRegisterStores := by
  unfold Obligations.CpwOfAFaultRegisterStores
  intro s v hl
  exact ⟨exec_live hl (.cpwDfsr v), exec_live hl (.cpwIfsr v), exec_live hl (.cpwDfar v), exec_live hl (.cpwIfar v)⟩

/-- Settles O36: bit 24 decides between the two ends of the handler. -/
theorem cpwSctlrDerivesTheEnables : Obligations.CpwSctlrDerivesTheEnables := by
  unfold Obligations.CpwSctlrDerivesTheEnables
  intro s v hl
  refine ⟨?vectored, ?stored⟩
  case vectored => exact fun h => exec_of_body_fatal hl (writeSctlr_vectored h s)
  case stored => exact fun h => exec_of_body_derives hl (writeSctlr_stored h s)

/-- Settles O37: the handlers store and mask, the invariant's split width is 0, and no walk reads the second base. -/
theorem cpwTtbrDerivesTheBase : Obligations.CpwTtbrDerivesTheBase := by
  unfold Obligations.CpwTtbrDerivesTheBase
  intro s v hl
  refine ⟨exec_of_body_derives hl rfl, fun hinv => ?masked, exec_of_body_derives hl rfl, walk_of_tc_agrees rfl rfl rfl⟩
  case masked =>
    rw [hinv.splitWidth_eq_zero]
    exact tableBase_zero v

/-- Settles O38: the field N decides between the two ends of the handler. -/
theorem cpwTtbcrRederivesTheBase : Obligations.CpwTtbcrRederivesTheBase := by
  unfold Obligations.CpwTtbcrRederivesTheBase
  intro s v hl
  refine ⟨?split, ?stored⟩
  case split => exact fun h => exec_of_body_fatal hl (writeTtbcr_split h s)
  case stored => exact fun h => exec_of_body_derives hl (writeTtbcr_stored h s)

/-- Settles O40: the handler stores the value and its low byte, which no walk reads. -/
theorem cpwContextidrTakesTheAsid : Obligations.CpwContextidrTakesTheAsid := by
  unfold Obligations.CpwContextidrTakesTheAsid
  intro s v hl
  exact ⟨exec_of_body_derives hl rfl, walk_of_tc_agrees rfl rfl rfl⟩

/-- Settles O41: the two words are those of format K, which the decoder reads as the commands of another key, and both
commands find no slot. -/
theorem unknownKeyIsFatal : Obligations.UnknownKeyIsFatal := by
  unfold Obligations.UnknownKeyIsFatal
  intro s key v hl hother hnone
  refine ⟨?decodeCpr, ?decodeCpw, exec_of_body_fatal hl (readOther_unknown hnone),
    exec_of_body_fatal hl (writeOther_unknown hnone v)⟩
  case decodeCpr => exact (decode_wordK_cpr key 0 v).trans (congrArg Except.ok (cprOfKey_other hother))
  case decodeCpw => exact (decode_wordK_cpw key 0 v).trans (congrArg Except.ok (cpwOfKey_other hother v))

end Sys2Proof.Machine
end

section
/-! What the interrupt controller's commands do (42_interrupt.md R110 to R114): the tests of a queue's depth and of an id,
then each command's body by the cases of its two queues. -/

namespace Sys2Proof.Machine

/-! ### The tests of a queue and of an id -/

theorem queueFull_iff (c : Config) (q : List Irq) : queueFull c q = true ↔ c.irqQueueDepth = some q.length := by
  unfold queueFull
  cases c.irqQueueDepth with
  | none => simp
  | some n => simpa using eq_comm

theorem queueFull_eq_false_iff (c : Config) (q : List Irq) :
    queueFull c q = false ↔ c.irqQueueDepth ≠ some q.length := by
  rw [← Bool.not_eq_true, queueFull_iff]

theorem irqIllegal_eq_false_iff (c : Config) (irq : Irq) : irqIllegal c irq = false ↔ irq.toNat < c.irqCount := by
  simp [irqIllegal]

theorem irqPending_iff (ic : InterruptController) : irqPending ic = true ↔ ic.enabled = true ∧ ic.pending ≠ [] := by
  simp [irqPending]

/-! ### IRQRAISE, by the youngest pending id and the room in `pending` -/

section
variable {s : State} {irq : Irq} (hlegal : irqIllegal s.cfg irq = false)
include hlegal

theorem raiseIrq_duplicate (hlast : s.ic.pending.getLast? = some irq) : raiseIrq irq s = .ok 0 s := by
  simp [raiseIrq, hlegal, hlast]

theorem raiseIrq_full (hlast : s.ic.pending.getLast? ≠ some irq) (hfull : queueFull s.cfg s.ic.pending = true) :
    raiseIrq irq s = .fatal .queueOverflow (irq.setWidth 32) s := by
  simp [raiseIrq, hlegal, hlast, hfull]

theorem raiseIrq_room (hlast : s.ic.pending.getLast? ≠ some irq) (hroom : queueFull s.cfg s.ic.pending = false) :
    raiseIrq irq s = .ok 0 (s.setIc { s.ic with pending := s.ic.pending ++ [irq] }) := by
  simp [raiseIrq, hlegal, hlast, hroom]

/-! ### IRQEOI, by the oldest acknowledged id -/

theorem completeIrq_head {rest : List Irq} (hq : s.ic.acknowledged = irq :: rest) :
    completeIrq irq s = .ok 0 (s.setIc { s.ic with acknowledged := rest }) := by
  simp [completeIrq, hlegal, hq]

theorem completeIrq_mismatch (hhead : s.ic.acknowledged.head? ≠ some irq) :
    completeIrq irq s = .fatal .eoiMismatch (irq.setWidth 32) s := by
  cases hq : s.ic.acknowledged with
  | nil => simp [completeIrq, hlegal, hq]
  | cons oldest rest =>
    have hne : oldest ≠ irq := by simpa [hq] using hhead
    simp [completeIrq, hlegal, hq, hne]

end

/-! ### IRQACCEPT, by the oldest pending id and the room in `acknowledged` -/

theorem acceptIrq_empty {s : State} (hq : s.ic.pending = []) : acceptIrq s = .fatal .acceptEmpty 0 s := by
  simp only [acceptIrq, hq]

section
variable {s : State} {irq : Irq} {rest : List Irq} (hq : s.ic.pending = irq :: rest)
include hq

theorem acceptIrq_full (hfull : queueFull s.cfg s.ic.acknowledged = true) :
    acceptIrq s = .fatal .queueOverflow (irq.setWidth 32) s := by
  simp only [acceptIrq, hq, hfull, if_true]

theorem acceptIrq_room (hroom : queueFull s.cfg s.ic.acknowledged = false) :
    acceptIrq s
      = .ok (irq.setWidth 32) (s.setIc { s.ic with pending := rest, acknowledged := s.ic.acknowledged ++ [irq] }) := by
  simp only [acceptIrq, hq, hroom, Bool.false_eq_true, if_false]

end

/-! ### The statements -/

/-- Settles O44: the three ends of the body, for a legal id. -/
theorem irqraiseQueuesTheLine : Obligations.IrqraiseQueuesTheLine := by
  unfold Obligations.IrqraiseQueuesTheLine
  intro s irq hl hid
  have hlegal := (irqIllegal_eq_false_iff s.cfg irq).mpr hid
  refine ⟨fun hlast => ?duplicate, fun hlast hdepth => ?full, fun hlast hdepth => ?room⟩
  case duplicate => exact exec_of_body_ok hl _ (raiseIrq_duplicate hlegal hlast)
  case full => exact exec_of_body_fatal hl (raiseIrq_full hlegal hlast ((queueFull_iff _ _).mpr hdepth))
  case room =>
    exact exec_of_body_ok hl (.irqraise irq) (raiseIrq_room hlegal hlast ((queueFull_eq_false_iff _ _).mpr hdepth))

/-- Settles O45: the answer is the bit of the level output, which is set exactly when both conditions hold. -/
theorem irqpendReportsTheLevelOutput : Obligations.IrqpendReportsTheLevelOutput := by
  unfold Obligations.IrqpendReportsTheLevelOutput
  intro s hl
  refine ⟨?answer, irqPending_iff s.ic⟩
  case answer =>
    simp only [← irqPending_iff]
    exact exec_live hl .irqpend

/-- Settles O46: the three ends of the body, none of which reads the enable. -/
theorem irqacceptTakesTheOldest : Obligations.IrqacceptTakesTheOldest := by
  unfold Obligations.IrqacceptTakesTheOldest
  intro s hl
  refine ⟨fun hq => ?empty, fun irq rest hq => ⟨fun hdepth => ?full, fun hdepth => ?room⟩⟩
  case empty => exact exec_of_body_fatal hl (acceptIrq_empty hq)
  case full => exact exec_of_body_fatal hl (acceptIrq_full hq ((queueFull_iff _ _).mpr hdepth))
  case room => exact exec_of_body_ok hl .irqaccept (acceptIrq_room hq ((queueFull_eq_false_iff _ _).mpr hdepth))

/-- Settles O47: the head of `acknowledged` decides between the two ends of the body. -/
theorem irqeoiCompletesTheOldest : Obligations.IrqeoiCompletesTheOldest := by
  unfold Obligations.IrqeoiCompletesTheOldest
  intro s irq hl hid
  have hlegal := (irqIllegal_eq_false_iff s.cfg irq).mpr hid
  refine ⟨fun rest hq => ?head, fun hhead => ?mismatch⟩
  case head => exact exec_of_body_ok hl (.irqeoi irq) (completeIrq_head hlegal hq)
  case mismatch => exact exec_of_body_fatal hl (completeIrq_mismatch hlegal hhead)

/-- Settles O48: the body sets the enable and no more. -/
theorem irqenableSetsTheEnable : Obligations.IrqenableSetsTheEnable := by
  unfold Obligations.IrqenableSetsTheEnable
  intro s e hl
  exact exec_live hl (.irqenable e)

end Sys2Proof.Machine
end

section
/-! STOREU and the stores it is made of (43_bus.md R124): a store moves only the low part of its value and does not read
the response port, so its pieces sent as commands of their own end as they do within the one command. -/

namespace Sys2Proof.Machine

/-! ### A store moves the part of its value that its width names -/

theorem getLsbD_truncate (w : Width) (v : Word) (j : Nat) :
    (truncate w v).getLsbD j = (decide (j < 8 * widthBytes w) && v.getLsbD j) := by
  have hbound : v.getLsbD j = true → j < 32 := BitVec.lt_of_getLsbD
  cases w <;> grind [truncate, widthBytes]

theorem truncate_truncate (w : Width) (v : Word) : truncate w (truncate w v) = truncate w v :=
  BitVec.eq_of_getLsbD_eq fun j _ => by simp [getLsbD_truncate]

theorem byteOf_truncate (w : Width) (v : Word) {i : Nat} (hi : i < widthBytes w) :
    byteOf (truncate w v) i = byteOf v i :=
  BitVec.eq_of_getLsbD_eq fun j hj => by
    have hinside : 8 * i + j < 8 * widthBytes w := by omega
    simp [byteOf, getLsbD_truncate, hinside]

theorem memWrite_truncate (s : State) (pa : Word) (w : Width) (v : Word) :
    memWrite s pa w (truncate w v) = memWrite s pa w v := by
  cases w <;> simp (disch := decide) only [memWrite, byteOf_truncate]

theorem accessAt_store_truncate (va : Word) (w : Width) (v pa : Word) (s : State) :
    accessAt va w (.store (truncate w v)) pa s = accessAt va w (.store v) pa s := by
  simp only [accessAt, memWrite_truncate, periphWrite, truncate_truncate, AccessKind.isWrite, AccessKind.isFetch]

theorem access_store_truncate (va : Word) (w : Width) (p : Bool) (v : Word) (s : State) :
    access va w p (.store (truncate w v)) s = access va w p (.store v) s :=
  congrArg (translate va true p false s).andThen (funext₂ (accessAt_store_truncate va w v))

theorem storePieces_truncate (a : Word) (w : Width) (pieces : List (Word × Word)) (s : State) :
    storePieces a w (pieces.map fun c => (c.1, truncate w c.2)) s = storePieces a w pieces s := by
  induction pieces generalizing s with
  | nil => rfl
  | cons c rest ih => simp only [List.map_cons, storePieces, access_store_truncate, ih]

/-! ### STOREU's pieces are the low parts of the shifted word -/

/-- The halfwords' offsets and values as two halfword stores carry them. -/
def shiftedHalves (d : Word) : List (Word × Word) := [(0, d), (2, d >>> 16)]

/-- The bytes' offsets and values as four byte stores carry them. -/
def shiftedBytes (d : Word) : List (Word × Word) := [(0, d), (1, d >>> 8), (2, d >>> 16), (3, d >>> 24)]

theorem extractLsb'_eq_ushiftRight (d : Word) (k n : Nat) : d.extractLsb' k n = (d >>> k).extractLsb' 0 n := by
  ext
  simp

theorem halfPieces_eq (d : Word) : halfPieces d = (shiftedHalves d).map fun c => (c.1, truncate .half c.2) := by
  simp [halfPieces, shiftedHalves, truncate, extractLsb'_eq_ushiftRight d 16]

theorem bytePieces_eq (d : Word) : bytePieces d = (shiftedBytes d).map fun c => (c.1, truncate .byte c.2) := by
  simp [bytePieces, shiftedBytes, truncate, byteOf, extractLsb'_eq_ushiftRight d 8, extractLsb'_eq_ushiftRight d 16,
    extractLsb'_eq_ushiftRight d 24]

theorem storeUnaligned_even {a : Word} (h : a.getLsbD 0 = false) (d : Word) (s : State) :
    storeUnaligned a d s = storePieces a .half (shiftedHalves d) s := by
  rw [storeUnaligned, if_neg (ne_true_of_eq_false h), halfPieces_eq, storePieces_truncate]

theorem storeUnaligned_odd {a : Word} (h : a.getLsbD 0 = true) (d : Word) (s : State) :
    storeUnaligned a d s = storePieces a .byte (shiftedBytes d) s := by
  rw [storeUnaligned, if_pos h, bytePieces_eq, storePieces_truncate]

/-! ### A store does not read the response port -/

@[simp] theorem respond_respond (s : State) (q r : Response) : (s.respond q).respond r = s.respond r := rfl

@[simp] theorem recorded_respond (s : State) (va : Word) (code : BitVec 5) (w : Bool) (q : Response) :
    recorded (s.respond q) va code w = (recorded s va code w).respond q := rfl

@[simp] theorem memWrite_respond (s : State) (pa : Word) (w : Width) (v : Word) (q : Response) :
    memWrite (s.respond q) pa w v = (memWrite s pa w v).respond q := by cases w <;> rfl

@[simp] theorem setFatal_respond (s : State) (r : FatalReason) (info : Word) (q : Response) :
    (s.respond q).setFatal r info = (s.setFatal r info).respond q := by
  simp only [State.setFatal, respond_fatal]
  cases s.fatal <;> rfl

theorem conclude_accessAt_store_respond (va : Word) (w : Width) (v pa : Word) (s : State) (q : Response) :
    conclude (accessAt va w (.store v) pa (s.respond q)) = conclude (accessAt va w (.store v) pa s) := by
  cases hroute : route s.cfg pa with
  | none => simp [accessAt_none, hroute]
  | periph id off =>
    rw [accessAt_periph_store hroute, accessAt_periph_store (s := s.respond q) hroute]
    rfl
  | ram =>
    by_cases haligned : pa.toNat % widthBytes w = 0
    · simp [accessAt_ram_store, hroute, haligned]
    · by_cases hrecords : s.cfg.alignRecords = true <;>
        simp [accessAt_misaligned, hroute, haligned, takeAlignment_eq, hrecords]

theorem conclude_access_store_respond (va : Word) (w : Width) (p : Bool) (v : Word) (s : State) (q : Response) :
    conclude (access va w p (.store v) (s.respond q)) = conclude (access va w p (.store v) s) := by
  have hwalk : walk (s.respond q) va true p = walk s va true p := walk_congr rfl rfl rfl va true p
  cases h : walk s va true p with
  | done pa => rw [access_done (.store v) h, access_done (.store v) (hwalk.trans h), conclude_accessAt_store_respond]
  | fault st => simp [access_fault (.store v) h, access_fault (.store v) (hwalk.trans h)]
  | fatal r i => simp [access_fatal (.store v) h, access_fatal (.store v) (hwalk.trans h)]

theorem exec_store_respond (w : Width) (p : Bool) (a d : Word) (s : State) (q : Response) :
    exec (storeForm w p a d) (s.respond q) = exec (storeForm w p a d) s := by
  by_cases hl : s.live
  · have hlq : (s.respond q).live := hl
    rw [exec_store hl, exec_store hlq, conclude_access_store_respond]
  · have hlq : ¬(s.respond q).live := hl
    rw [exec_halted hl, exec_halted hlq, respond_respond]

/-! ### What a store answers -/

/-- A store that completes answers 0 (43_bus.md R122). -/
theorem accessAt_store_ok {va : Word} {w : Width} {v pa r : Word} {s t : State}
    (h : accessAt va w (.store v) pa s = .ok r t) : r = 0 := by
  obtain ⟨-, hend⟩ | ⟨_, _, -, ⟨hread, -⟩ | ⟨_, -, hend⟩⟩ | ⟨-, -, ⟨hread, -⟩ | ⟨_, -, hend⟩⟩ | ⟨-, -, hend⟩ :=
    accessAt_cases va w (.store v) pa s
  · cases hend.symm.trans h
  · cases hread
  · cases hend.symm.trans h; rfl
  · cases hread
  · cases hend.symm.trans h; rfl
  · cases hend.symm.trans h

theorem access_store_ok {va : Word} {w : Width} {p : Bool} {v r : Word} {s t : State}
    (h : access va w p (.store v) s = .ok r t) : r = 0 := by
  cases hwalk : walk s va true p with
  | done pa => exact accessAt_store_ok ((access_done (.store v) hwalk w).symm.trans h)
  | fault st => cases (access_fault (.store v) hwalk w).symm.trans h
  | fatal f i => cases (access_fatal (.store v) hwalk w).symm.trans h

theorem access_ok_fatal {va : Word} {w : Width} {p : Bool} {k : AccessKind} {r : Word} {s t : State}
    (h : access va w p k s = .ok r t) : t.fatal = s.fatal := by
  have hframe := access_frame va w p k s
  rw [h] at hframe
  exact hframe.fatal

/-! ### Commands one after the other -/

theorem runUntilFailure_ok {i : Instr} {s t : State} (h : exec i s = .next t) (hok : t.response = some (.ok 0))
    (rest : List Instr) : runUntilFailure (i :: rest) s = runUntilFailure rest t := by
  simp only [runUntilFailure, h, hok, if_true]

theorem runUntilFailure_failed {i : Instr} {s t : State} (h : exec i s = .next t) (hfail : t.response ≠ some (.ok 0))
    (rest : List Instr) : runUntilFailure (i :: rest) s = .next t := by
  simp only [runUntilFailure, h, hfail, if_false]

/-- The privileged stores of pieces as commands of their own. -/
def storeCommands (a : Word) (w : Width) (pieces : List (Word × Word)) : List Instr :=
  pieces.map fun c => storeForm w true (a + c.1) c.2

/-- After a command that ended in OK 0, the stores of the pieces end as the pieces do. The port's OK 0 is what a run of no
commands answers; the first store does not read it. -/
theorem runUntilFailure_storeCommands_respond (a : Word) (w : Width) (pieces : List (Word × Word)) {s : State} (hl : s.live) :
    runUntilFailure (storeCommands a w pieces) (s.respond (.ok 0)) = .next (conclude (storePieces a w pieces s)) := by
  induction pieces generalizing s with
  | nil => rfl
  | cons c rest ih =>
    have hfirst := (exec_store_respond w true (a + c.1) c.2 s (.ok 0)).trans (exec_store hl w true (a + c.1) c.2)
    rw [storePieces]
    generalize hpiece : access (a + c.1) w true (.store c.2) s = piece at hfirst ⊢
    cases piece with
    | ok r t =>
      obtain rfl : r = 0 := access_store_ok hpiece
      exact (runUntilFailure_ok hfirst rfl _).trans (ih ((access_ok_fatal hpiece).trans hl))
    | abort f t => exact runUntilFailure_failed hfirst (by simp) _
    | fatal r i t => exact runUntilFailure_failed hfirst (by simp) _

/-- The stores of one piece or more, from any live state. -/
theorem runUntilFailure_storeCommands (a : Word) (w : Width) (c : Word × Word) (rest : List (Word × Word)) {s : State}
    (hl : s.live) :
    runUntilFailure (storeCommands a w (c :: rest)) s = .next (conclude (storePieces a w (c :: rest) s)) := by
  rw [← runUntilFailure_storeCommands_respond a w (c :: rest) hl]
  simp only [storeCommands, List.map_cons, runUntilFailure, exec_store_respond]

/-- A halted block answers Halted to the first of the commands. -/
theorem runUntilFailure_halted {s : State} (h : ¬s.live) (i : Instr) (rest : List Instr) :
    runUntilFailure (i :: rest) s = .next (s.respond (.fatal .halted)) :=
  runUntilFailure_failed (exec_halted h i) (by simp) rest

theorem exec_storeu_of_pieces {a d : Word} {w : Width} {c : Word × Word} {rest : List (Word × Word)} {s : State}
    (h : storeUnaligned a d s = storePieces a w (c :: rest) s) :
    exec (.storeu a d) s = runUntilFailure (storeCommands a w (c :: rest)) s := by
  by_cases hl : s.live
  · rw [exec_live hl, runUntilFailure_storeCommands a w c rest hl, ← h]
    rfl
  · exact (exec_halted hl _).trans (runUntilFailure_halted hl _ _).symm

/-! ### The statement -/

/-- Settles O28: at either parity the body is a run of store pieces, and these are the commands' stores. -/
theorem storeuIsItsPieces : Obligations.StoreuIsItsPieces := by
  unfold Obligations.StoreuIsItsPieces
  intro s a d
  refine ⟨fun heven => ?_, fun hodd => ?_⟩
  · rw [exec_storeu_of_pieces (storeUnaligned_even heven d s)]
    simp [storeCommands, storeForm]
  · rw [exec_storeu_of_pieces (storeUnaligned_odd hodd d s)]
    simp [storeCommands, storeForm]

end Sys2Proof.Machine
end

section
/-! What reset leaves behind (70_reset_and_hazards.md R150): every slot but SCTLR is 0 and SCTLR has its fixed bit alone, so
the derived fields agree with the raw slots as soon as that bit is none of those that derive a field (00_scope.md R8). -/

namespace Sys2Proof.Machine

/-! ### SCTLR and the rights -/

/-- SCTLR at reset has one bit set, the fixed one. -/
theorem reset_sctlr_getLsbD (c : Config) (i : Nat) :
    (ControlRegs.reset c).sctlr.getLsbD i = decide (c.sctlrFixedBit.val = i) := by
  rw [ControlRegs.reset, ← BitVec.twoPow_eq, BitVec.getLsbD_twoPow, decide_eq_true c.sctlrFixedBit.isLt, Bool.true_and]

/-- The fixed bit is none of the bits that derive a field, nor the one whose write is fatal. -/
theorem sctlrFixedBit_of_wf {c : Config} (h : c.wf = true) :
    c.sctlrFixedBit.val ≠ 0 ∧ c.sctlrFixedBit.val ≠ 1 ∧ c.sctlrFixedBit.val ≠ 13 ∧ c.sctlrFixedBit.val ≠ 24 := by
  simp only [Config.wf, Bool.and_eq_true, bne_iff_ne] at h
  obtain ⟨⟨⟨-, ⟨⟨h0, h1⟩, h13⟩, h24⟩, -⟩, -⟩ := h
  exact ⟨h0, h1, h13, h24⟩

theorem reset_domainRights_get (d : Fin 16) : TranslationContext.reset.domainRights.get d = .noAccess :=
  Vector.getElem_replicate d.isLt

/-- A DACR of 0 gives no domain a right. -/
theorem decodeDacr_zero : decodeDacr 0 = Vector.replicate 16 .noAccess := by decide

/-! ### R35 at reset -/

/-- Where the fixed bit derives no field, the fields at reset are those the slots at reset derive. -/
theorem agrees_reset {c : Config} (h : c.wf = true) :
    agrees c TranslationContext.reset (ControlRegs.reset c) = true := by
  obtain ⟨h0, h1, h13, -⟩ := sctlrFixedBit_of_wf h
  have hclear {i : Nat} (hi : c.sctlrFixedBit.val ≠ i) : false = (ControlRegs.reset c).sctlr.getLsbD i := by
    rw [reset_sctlr_getLsbD, decide_eq_false hi]
  have hset : (ControlRegs.reset c).sctlr.getLsbD c.sctlrFixedBit.val = true := by
    rw [reset_sctlr_getLsbD, decide_eq_true rfl]
  exact (agrees_iff _ _ _).mpr ⟨⟨hclear h0, hclear h1, hclear h13⟩, hset, ⟨rfl, rfl⟩,
    ⟨BitVec.zero_and.symm, BitVec.zero_and.symm⟩, decodeDacr_zero.symm, rfl⟩

/-! ### The statement -/

/-- Settles O1: every row is read off the definitions of reset, and `agrees_reset` is R35. -/
theorem resetLeavesTheListedValues : Obligations.ResetLeavesTheListedValues := by
  unfold Obligations.ResetLeavesTheListedValues
  intro c
  exact ⟨rfl, rfl, rfl, rfl, rfl, reset_domainRights_get, rfl, rfl, rfl, rfl, rfl, rfl, rfl, rfl, rfl, rfl, rfl, rfl, rfl,
    fun _ => rfl, rfl, rfl, rfl, fun _ => rfl, rfl, agrees_reset⟩

end Sys2Proof.Machine
end

section
/-! The decoder and the encoder (30_encoding.md R57 to R74): the reserved-zero bits as fields of the word, what the decoder
reads from each operation and when it refuses, and the two directions between a command and its word. -/

namespace Sys2Proof

open Machine

/-! ### Reserved-zero bits as fields -/

/-- No bit of a mask of `len` ones from bit `lo` up is set in the word exactly if that field of the word is 0. -/
theorem and_eq_zero_iff_extractLsb' {cmd mask : Word} {lo len : Nat}
    (hmask : ∀ i < 32, mask.getLsbD i = (decide (lo ≤ i) && decide (i < lo + len))) (hlen : lo + len ≤ 32) :
    cmd &&& mask = 0 ↔ cmd.extractLsb' lo len = 0 := by
  constructor
  · intro h
    refine BitVec.eq_of_getLsbD_eq fun j hj => ?_
    have hbit := congrArg (fun w : Word => w.getLsbD (lo + j)) h
    simpa [hmask (lo + j) (by omega), hj] using hbit
  · intro h
    refine BitVec.eq_of_getLsbD_eq fun i hi => ?_
    have hbit := congrArg (fun w : BitVec len => w.getLsbD (i - lo)) h
    by_cases hin : lo ≤ i ∧ i < lo + len
    · have hi' : i - lo < len := by omega
      simpa [hmask i hi, hin.1, hin.2, hi', Nat.add_sub_cancel' hin.1] using hbit
    · have : mask.getLsbD i = false := by
        rw [hmask i hi]
        simpa using hin
      simp [this]

theorem reservedSet_eq_false_iff (cmd mask : Word) : reservedSet cmd mask = false ↔ cmd &&& mask = 0 := by
  simp [reservedSet]

theorem reservedSet_reservedU (cmd : Word) : reservedSet cmd reservedU = false ↔ cmd.extractLsb' 0 28 = 0 :=
  (reservedSet_eq_false_iff _ _).trans (and_eq_zero_iff_extractLsb' (by decide) (by decide))

theorem reservedSet_reservedK (cmd : Word) : reservedSet cmd reservedK = false ↔ cmd.extractLsb' 14 14 = 0 :=
  (reservedSet_eq_false_iff _ _).trans (and_eq_zero_iff_extractLsb' (by decide) (by decide))

theorem reservedSet_reservedI (cmd : Word) : reservedSet cmd reservedI = false ↔ cmd.extractLsb' 16 12 = 0 :=
  (reservedSet_eq_false_iff _ _).trans (and_eq_zero_iff_extractLsb' (by decide) (by decide))

theorem reservedSet_reservedE (cmd : Word) : reservedSet cmd reservedE = false ↔ cmd.extractLsb' 1 27 = 0 :=
  (reservedSet_eq_false_iff _ _).trans (and_eq_zero_iff_extractLsb' (by decide) (by decide))

/-- A mask of two fields. -/
theorem reservedSet_or (cmd m n : Word) :
    reservedSet cmd (m ||| n) = false ↔ cmd &&& m = 0 ∧ cmd &&& n = 0 := by
  rw [reservedSet_eq_false_iff, BitVec.and_or_distrib_left]
  exact BitVec.or_eq_zero_iff

theorem reservedSet_reservedT (cmd : Word) :
    reservedSet cmd reservedT = false ↔ cmd.extractLsb' 23 5 = 0 ∧ cmd.extractLsb' 0 21 = 0 :=
  (reservedSet_or cmd 0x0F800000 0x001FFFFF).trans
    (and_congr (and_eq_zero_iff_extractLsb' (by decide) (by decide)) (and_eq_zero_iff_extractLsb' (by decide) (by decide)))

theorem reservedSet_reservedM (cmd : Word) :
    reservedSet cmd reservedM = false ↔ cmd.extractLsb' 26 2 = 0 ∧ cmd.extractLsb' 0 22 = 0 :=
  (reservedSet_or cmd 0x0C000000 0x003FFFFF).trans
    (and_congr (and_eq_zero_iff_extractLsb' (by decide) (by decide)) (and_eq_zero_iff_extractLsb' (by decide) (by decide)))

/-! ### When the decoder refuses -/

theorem decodeUnless_refuses (cmd mask : Word) (i : Instr) :
    (∃ e, decodeUnless cmd mask i = .error e) ↔ ¬reservedSet cmd mask = false := by
  unfold decodeUnless
  cases reservedSet cmd mask <;> simp

theorem decodeXlat_refuses (cmd a : Word) : (∃ e, decodeXlat cmd a = .error e) ↔ ¬reservedSet cmd reservedT = false := by
  unfold decodeXlat
  cases reservedSet cmd reservedT <;> cases cmd.getLsbD 22 <;> cases cmd.getLsbD 21 <;> simp

theorem field_two_cases (cmd : Word) (lo : Nat) :
    field cmd lo 2 = 0 ∨ field cmd lo 2 = 1 ∨ field cmd lo 2 = 2 ∨ field cmd lo 2 = 3 := by
  have hlt : field cmd lo 2 < 4 := (cmd.extractLsb' lo 2).isLt
  omega

theorem decodeLoad_refuses (cmd a : Word) :
    (∃ e, decodeLoad cmd a = .error e) ↔
      ¬reservedSet cmd reservedM = false ∨ field cmd 24 2 = 3 ∨ (cmd.getLsbD 23 = true ∧ field cmd 24 2 ≠ 2) := by
  unfold decodeLoad
  obtain hsz | hsz | hsz | hsz := field_two_cases cmd 24 <;>
    cases reservedSet cmd reservedM <;> cases cmd.getLsbD 23 <;> simp [hsz]

theorem decodeStore_refuses (cmd a d : Word) :
    (∃ e, decodeStore cmd a d = .error e) ↔
      ¬reservedSet cmd reservedM = false ∨ field cmd 24 2 = 3 ∨ cmd.getLsbD 23 = true := by
  unfold decodeStore
  obtain hsz | hsz | hsz | hsz := field_two_cases cmd 24 <;>
    cases reservedSet cmd reservedM <;> cases cmd.getLsbD 23 <;> simp [hsz]

/-- Settles O6: the operation selects the format, and each format's decoder refuses by its own lemma. -/
theorem decoderRefusesExactlyTheIllegalWords : Obligations.DecoderRefusesExactlyTheIllegalWords := by
  unfold Obligations.DecoderRefusesExactlyTheIllegalWords
  intro cmd a d
  have hop : opField cmd < 16 := (cmd.extractLsb' 28 4).isLt
  have hopField : (cmd.extractLsb' 28 4).toNat = opField cmd := rfl
  have hszField : (cmd.extractLsb' 24 2).toNat = field cmd 24 2 := rfl
  simp only [hopField, hszField, decode]
  interval_cases opField cmd <;>
    simp [decodeUnless_refuses, decodeXlat_refuses, decodeLoad_refuses, decodeStore_refuses, reservedSet_reservedT,
      reservedSet_reservedM, reservedSet_reservedU, reservedSet_reservedK, reservedSet_reservedI, reservedSet_reservedE]

/-! ### Decoding an encoded command -/

theorem decode_wordI_irqraise (irq : Irq) (a d : Word) : decode (wordI 6 irq) a d = .ok (.irqraise irq) := by
  rw [decode_irqraise (opField_wordI (.inl rfl) irq), irqField_wordI (.inl rfl)]
  exact if_neg (by simp [reservedSet_wordI])

theorem decode_wordI_irqeoi (irq : Irq) (a d : Word) : decode (wordI 9 irq) a d = .ok (.irqeoi irq) := by
  rw [decode_irqeoi (opField_wordI (.inr rfl) irq), irqField_wordI (.inr rfl)]
  exact if_neg (by simp [reservedSet_wordI])

/-- Settles O4: the words of formats K and I carry their field whole; every other word has at most one free bit, and is
decoded at each of its values. -/
theorem decodeOfEncodeIsTheCommand : Obligations.DecodeOfEncodeIsTheCommand := by
  unfold Obligations.DecodeOfEncodeIsTheCommand
  intro i hwf
  cases i <;> simp only [encode, decodeCommand_mk]
  case cprOther key => exact (decode_wordK_cpr key 0 0).trans (congrArg Except.ok (cprOfKey_other hwf))
  case cpwOther key v => exact (decode_wordK_cpw key 0 v).trans (congrArg Except.ok (cpwOfKey_other hwf v))
  case irqraise irq => exact decode_wordI_irqraise irq 0 0
  case irqeoi irq => exact decode_wordI_irqeoi irq 0 0
  case ldb p _ | ldh p _ | ldw p _ | fetch p _ | stb p _ _ | sth p _ _ | stw p _ _ => cases p <;> rfl
  case irqenable e => cases e <;> rfl
  all_goals rfl

/-- Settles O8: every word is decoded with the operands left open. -/
theorem tabledWordsDecodeToTheirCommands : Obligations.TabledWordsDecodeToTheirCommands := by
  unfold Obligations.TabledWordsDecodeToTheirCommands
  intro a d
  exact ⟨rfl, rfl, rfl, rfl, rfl, rfl, rfl, rfl, rfl, rfl, rfl, rfl, rfl, rfl, rfl, rfl, rfl, rfl, rfl, rfl, rfl, rfl⟩

/-! ### The word of a decoded command -/

/-- A word is its operation and its low bits, where the bits between are 0. -/
theorem word_of_op_low {cmd op : Word} {n : Nat} (hn : n ≤ 28) (hop : opField cmd = op.toNat)
    (hmid : cmd.extractLsb' n (28 - n) = 0) : op <<< 28 ||| (cmd.extractLsb' 0 n).setWidth 32 = cmd := by
  refine BitVec.eq_of_getLsbD_eq fun i hi => ?_
  have hlow : i < n ∨ (n ≤ i ∧ i < 28) ∨ 28 ≤ i := by omega
  obtain hlow | ⟨hge, hlt⟩ | hhigh := hlow
  · have h28 : i < 28 := by omega
    simp [hlow, h28, hi]
  · have hbit := congrArg (fun w : BitVec (28 - n) => w.getLsbD (i - n)) hmid
    have hin : i - n < 28 - n := by omega
    have hnot : ¬i < n := by omega
    simp [hin, Nat.add_sub_cancel' hge] at hbit
    simp [hlt, hnot, hbit]
  · have hbit := congrArg (fun k => k.testBit (i - 28)) hop
    have hin : i - 28 < 4 := by omega
    have hnot : ¬i < 28 := by omega
    have hnot' : ¬i < n := by omega
    simp only [opField, field, BitVec.testBit_toNat, BitVec.getLsbD_extractLsb', hin, decide_true, Bool.true_and,
      Nat.add_sub_cancel' hhigh] at hbit
    simp only [BitVec.getLsbD_or, BitVec.getLsbD_shiftLeft, BitVec.getLsbD_setWidth, BitVec.getLsbD_extractLsb', hi, hnot,
      hnot', ← hbit]
    simp

section
variable {cmd : Word}

theorem wordK_of_fields {op : Word} (hop : opField cmd = op.toNat) (hreserved : reservedSet cmd reservedK = false) :
    wordK op (keyField cmd) = cmd :=
  word_of_op_low (n := 14) (by decide) hop ((reservedSet_reservedK cmd).mp hreserved)

theorem wordI_of_fields {op : Word} (hop : opField cmd = op.toNat) (hreserved : reservedSet cmd reservedI = false) :
    wordI op (irqField cmd) = cmd :=
  word_of_op_low (n := 16) (by decide) hop ((reservedSet_reservedI cmd).mp hreserved)

/-- The word of a format with no field but the operation. -/
theorem wordU_of_fields {op : Word} (hop : opField cmd = op.toNat) (hreserved : reservedSet cmd reservedU = false) :
    op <<< 28 = cmd := by
  have hword := word_of_op_low (n := 0) (by decide) hop ((reservedSet_reservedU cmd).mp hreserved)
  simpa using hword

theorem extractLsb'_one (w : Word) (i : Nat) : w.extractLsb' i 1 = BitVec.ofBool (w.getLsbD i) := by
  refine BitVec.eq_of_getLsbD_eq fun j hj => ?_
  obtain rfl : j = 0 := by omega
  simp

theorem wordE_of_fields {op : Word} (hop : opField cmd = op.toNat) (hreserved : reservedSet cmd reservedE = false) :
    op <<< 28 ||| bit (cmd.getLsbD 0) = cmd := by
  have hword := word_of_op_low (n := 1) (by decide) hop ((reservedSet_reservedE cmd).mp hreserved)
  rw [extractLsb'_one] at hword
  cases h : cmd.getLsbD 0 <;> rw [h] at hword <;> exact hword

/-- A word cut into the fields of format T. -/
theorem word_eq_fieldsT (cmd : Word) :
    cmd = cmd.extractLsb' 28 4 ++ cmd.extractLsb' 23 5 ++ cmd.extractLsb' 22 1 ++ cmd.extractLsb' 21 1 ++ cmd.extractLsb' 0 21 := by
  refine BitVec.eq_of_toNat_eq ?_
  simp only [Machine.toNat_append_eq, BitVec.extractLsb'_toNat, Nat.shiftRight_eq_div_pow]
  omega

/-- A word cut into the fields of format M. -/
theorem word_eq_fieldsM (cmd : Word) :
    cmd = cmd.extractLsb' 28 4 ++ cmd.extractLsb' 26 2 ++ cmd.extractLsb' 24 2 ++ cmd.extractLsb' 23 1
      ++ cmd.extractLsb' 22 1 ++ cmd.extractLsb' 0 22 := by
  refine BitVec.eq_of_toNat_eq ?_
  simp only [Machine.toNat_append_eq, BitVec.extractLsb'_toNat, Nat.shiftRight_eq_div_pow]
  omega

theorem extractLsb'_of_field {lo len n : Nat} (h : field cmd lo len = n) : cmd.extractLsb' lo len = BitVec.ofNat len n := by
  rw [← h, field, BitVec.ofNat_toNat, BitVec.setWidth_eq]

theorem wordT_of_fields (hop : opField cmd = 0) (hreserved : reservedSet cmd reservedT = false) :
    wordT (cmd.getLsbD 22) (cmd.getLsbD 21) = cmd := by
  obtain ⟨hhigh, hlow⟩ := (reservedSet_reservedT cmd).mp hreserved
  conv_rhs => rw [word_eq_fieldsT cmd, extractLsb'_of_field hop, hhigh, hlow, extractLsb'_one, extractLsb'_one]
  cases cmd.getLsbD 22 <;> cases cmd.getLsbD 21 <;> rfl

theorem wordM_of_fields {op sz : Nat} (hop : opField cmd = op) (hreserved : reservedSet cmd reservedM = false)
    (hsz : field cmd 24 2 = sz) (hop' : op = 1 ∨ op = 2) :
    wordM (BitVec.ofNat 32 op) (BitVec.ofNat 32 sz) (cmd.getLsbD 23) (cmd.getLsbD 22) = cmd := by
  obtain ⟨hhigh, hlow⟩ := (reservedSet_reservedM cmd).mp hreserved
  have hlt : sz < 4 := hsz ▸ (cmd.extractLsb' 24 2).isLt
  conv_rhs =>
    rw [word_eq_fieldsM cmd, extractLsb'_of_field hop, hhigh, hlow, extractLsb'_of_field hsz, extractLsb'_one, extractLsb'_one]
  obtain rfl | rfl := hop' <;> interval_cases sz <;> cases cmd.getLsbD 23 <;> cases cmd.getLsbD 22 <;> rfl

end

/-! ### What the decoder reads -/

/-- The command has the word, and its operands are the port's or unused (30_encoding.md R56, R68). -/
def IsCommandOf (i : Instr) (c : Command) : Prop :=
  i.wf = true ∧ (encode i).cmd = c.cmd ∧ ((encode i).a = c.a ∨ (encode i).a = 0) ∧ ((encode i).d = c.d ∨ (encode i).d = 0)

theorem decodeUnless_ok {cmd mask : Word} {i j : Instr} (h : decodeUnless cmd mask i = .ok j) :
    reservedSet cmd mask = false ∧ i = j := by
  unfold decodeUnless at h
  cases hr : reservedSet cmd mask <;> simp_all

theorem decodeXlat_ok {cmd a : Word} {i : Instr} (h : decodeXlat cmd a = .ok i) :
    reservedSet cmd reservedT = false ∧ i = xlatForm (cmd.getLsbD 22) (cmd.getLsbD 21) a := by
  unfold decodeXlat at h
  cases hr : reservedSet cmd reservedT
  case true => simp [hr] at h
  case false => cases hp : cmd.getLsbD 22 <;> cases hw : cmd.getLsbD 21 <;> simp_all [xlatForm]

theorem isCommandOf_xlat {cmd a d : Word} {i : Instr} (hop : opField cmd = 0) (h : decodeXlat cmd a = .ok i) :
    IsCommandOf i ⟨cmd, a, d⟩ := by
  obtain ⟨hr, rfl⟩ := decodeXlat_ok h
  have hword := wordT_of_fields hop hr
  revert hword
  cases cmd.getLsbD 22 <;> cases cmd.getLsbD 21 <;> exact fun hword => ⟨rfl, hword, .inl rfl, .inr rfl⟩

theorem isCommandOf_load {cmd a d : Word} {i : Instr} (hop : opField cmd = 1) (h : decodeLoad cmd a = .ok i) :
    IsCommandOf i ⟨cmd, a, d⟩ := by
  unfold decodeLoad at h
  cases hr : reservedSet cmd reservedM
  case true => simp [hr] at h
  case false =>
    obtain hsz | hsz | hsz | hsz := field_two_cases cmd 24
    all_goals
      have hword := wordM_of_fields hop hr hsz (.inl rfl)
      cases hf : cmd.getLsbD 23
      all_goals
        simp only [hr, hsz, hf, Bool.false_eq_true, if_false, if_true] at h hword
        cases h <;> exact ⟨rfl, hword, .inl rfl, .inr rfl⟩

theorem isCommandOf_store {cmd a d : Word} {i : Instr} (hop : opField cmd = 2) (h : decodeStore cmd a d = .ok i) :
    IsCommandOf i ⟨cmd, a, d⟩ := by
  unfold decodeStore at h
  cases hr : reservedSet cmd reservedM
  case true => simp [hr] at h
  case false =>
    obtain hsz | hsz | hsz | hsz := field_two_cases cmd 24
    all_goals
      have hword := wordM_of_fields hop hr hsz (.inr rfl)
      cases hf : cmd.getLsbD 23
      all_goals
        simp only [hr, hsz, hf, Bool.false_eq_true, if_false, if_true] at h hword
        cases h <;> exact ⟨rfl, hword, .inl rfl, .inl rfl⟩

theorem named_or_other (key : Key) : key ∈ namedKeys ∨ otherKey key = true := by
  by_cases hnamed : key ∈ namedKeys
  · exact .inl hnamed
  · exact .inr (by simpa [otherKey] using hnamed)

theorem isCommandOf_cpr {cmd a d : Word} {key : Key} (hword : wordK 4 key = cmd) : IsCommandOf (cprOfKey key) ⟨cmd, a, d⟩ := by
  subst hword
  obtain hnamed | hother := named_or_other key
  · simp only [namedKeys_eq, List.mem_cons, List.not_mem_nil, or_false] at hnamed
    obtain rfl | rfl | rfl | rfl | rfl | rfl | rfl | rfl | rfl | rfl := hnamed <;> exact ⟨rfl, rfl, .inr rfl, .inr rfl⟩
  · rw [cprOfKey_other hother]
    exact ⟨hother, rfl, .inr rfl, .inr rfl⟩

theorem isCommandOf_cpw {cmd a d : Word} {key : Key} (hword : wordK 5 key = cmd) :
    IsCommandOf (cpwOfKey key d) ⟨cmd, a, d⟩ := by
  subst hword
  obtain hnamed | hother := named_or_other key
  · simp only [namedKeys_eq, List.mem_cons, List.not_mem_nil, or_false] at hnamed
    obtain rfl | rfl | rfl | rfl | rfl | rfl | rfl | rfl | rfl | rfl := hnamed <;> exact ⟨rfl, rfl, .inr rfl, .inl rfl⟩
  · rw [cpwOfKey_other hother]
    exact ⟨hother, rfl, .inr rfl, .inl rfl⟩

/-! ### The statement -/

/-- Settles O5: the operation selects the format, whose reserved-zero bits are 0, and the word is made of the fields that were
read. -/
theorem decodedWordIsTheCommandsWord : Obligations.DecodedWordIsTheCommandsWord := by
  unfold Obligations.DecodedWordIsTheCommandsWord
  rintro ⟨cmd, a, d⟩ i h
  rw [decodeCommand_mk, decode] at h
  show IsCommandOf i ⟨cmd, a, d⟩
  split at h
  case h_1 hop => exact isCommandOf_xlat hop h
  case h_2 hop => exact isCommandOf_load hop h
  case h_3 hop => exact isCommandOf_store hop h
  case h_4 hop =>
    obtain ⟨hr, rfl⟩ := decodeUnless_ok h
    exact ⟨rfl, wordU_of_fields (op := 3) hop hr, .inl rfl, .inl rfl⟩
  case h_5 hop =>
    obtain ⟨hr, rfl⟩ := decodeUnless_ok h
    exact isCommandOf_cpr (wordK_of_fields (op := 4) hop hr)
  case h_6 hop =>
    obtain ⟨hr, rfl⟩ := decodeUnless_ok h
    exact isCommandOf_cpw (wordK_of_fields (op := 5) hop hr)
  case h_7 hop =>
    obtain ⟨hr, rfl⟩ := decodeUnless_ok h
    exact ⟨rfl, wordI_of_fields (op := 6) hop hr, .inr rfl, .inr rfl⟩
  case h_8 hop =>
    obtain ⟨hr, rfl⟩ := decodeUnless_ok h
    exact ⟨rfl, wordU_of_fields (op := 7) hop hr, .inr rfl, .inr rfl⟩
  case h_9 hop =>
    obtain ⟨hr, rfl⟩ := decodeUnless_ok h
    exact ⟨rfl, wordU_of_fields (op := 8) hop hr, .inr rfl, .inr rfl⟩
  case h_10 hop =>
    obtain ⟨hr, rfl⟩ := decodeUnless_ok h
    exact ⟨rfl, wordI_of_fields (op := 9) hop hr, .inr rfl, .inr rfl⟩
  case h_11 hop =>
    obtain ⟨hr, rfl⟩ := decodeUnless_ok h
    exact ⟨rfl, wordE_of_fields (op := 10) hop hr, .inr rfl, .inr rfl⟩
  case h_12 => cases h

end Sys2Proof
end

section
/-! How commands end (00_scope.md R11): the states an access, a control-register command and an interrupt command can leave
with each of the three outcomes, what a FATAL and an ABORT leave alone, and what only certain commands change. -/

namespace Sys2Proof.Machine

/-! ### Every way a command can end -/

/-- A command's answer, by the Halted check and the outcome of its body (10_state.md R34). -/
theorem command_cases {body : State → Ended Word} {s t : State} (h : command body s = .next t) :
    (s.fatal ≠ none ∧ t = s.respond (.fatal .halted))
      ∨ s.fatal = none ∧ ((∃ v u, body s = .ok v u ∧ t = u.respond (.ok v))
        ∨ (∃ f u, body s = .abort f u ∧ t = u.respond (.abort f))
        ∨ ∃ r info u, body s = .fatal r info u ∧ t = (u.setFatal r info).respond (.fatal r)) := by
  by_cases hl : s.fatal = none
  · rw [command_live hl] at h
    cases h
    refine .inr ⟨hl, ?_⟩
    cases hb : body s with
    | ok v u => exact .inl ⟨v, u, rfl, rfl⟩
    | abort f u => exact .inr (.inl ⟨f, u, rfl, rfl⟩)
    | fatal r info u => exact .inr (.inr ⟨r, info, u, rfl, rfl⟩)
  · rw [command_halted hl] at h
    cases h
    exact .inl ⟨hl, rfl⟩

theorem exec_cases {i : Instr} {s t : State} (h : exec i s = .next t) :
    (s.fatal ≠ none ∧ t = s.respond (.fatal .halted))
      ∨ s.fatal = none ∧ ((∃ v u, bodyOf i s = .ok v u ∧ t = u.respond (.ok v))
        ∨ (∃ f u, bodyOf i s = .abort f u ∧ t = u.respond (.abort f))
        ∨ ∃ r info u, bodyOf i s = .fatal r info u ∧ t = (u.setFatal r info).respond (.fatal r)) :=
  command_cases ((exec_eq_command i s).symm.trans h)

/-! ### Every way an access can end -/

/-- What an abort leaves: the state as it was, or with the fault recorded (41_cp15.md R109, 43_bus.md R118). -/
def Aborted (s t : State) : Prop := t = s ∨ ∃ va code w, t = recorded s va code w

theorem Aborted.frame {s t : State} (h : Aborted s t) : BusFrame s t := by
  obtain rfl | ⟨va, code, w, rfl⟩ := h
  · exact .refl _
  · exact recorded_frame s va code w

theorem Aborted.ram {s t : State} (h : Aborted s t) : t.ram = s.ram := by
  obtain rfl | ⟨va, code, w, rfl⟩ := h <;> rfl

theorem Aborted.peripherals {s t : State} (h : Aborted s t) : SamePeripherals s t := by
  obtain rfl | ⟨va, code, w, rfl⟩ := h <;> exact ⟨rfl, rfl⟩

/-- An access is delivered to a peripheral, reads or writes RAM, ends in an Abort with its own flags, or in a Fatal with the
state as it was (43_bus.md R117 to R119). -/
theorem access_cases (va : Word) (w : Width) (p : Bool) (k : AccessKind) (s : State) :
    (∃ pa id off, walk s va k.isWrite p = .done pa ∧ route s.cfg pa = .periph id off
        ∧ ((k.reads = true ∧ access va w p k s = periphRead id off w s)
          ∨ ∃ v, k = .store v ∧ access va w p k s = periphWrite id off w v s))
      ∨ (∃ pa, walk s va k.isWrite p = .done pa ∧ route s.cfg pa = .ram ∧ pa.toNat % widthBytes w = 0
        ∧ ((k.reads = true ∧ access va w p k s = .ok (memRead s pa w) s)
          ∨ ∃ v, k = .store v ∧ access va w p k s = .ok 0 (memWrite s pa w v)))
      ∨ (∃ st t, access va w p k s = .abort ⟨st, k.isWrite, k.isFetch⟩ t ∧ Aborted s t)
      ∨ ∃ r i, access va w p k s = .fatal r i s := by
  cases hwalk : walk s va k.isWrite p with
  | fault st => exact .inr (.inr (.inl ⟨st, _, access_fault k hwalk w, .inr ⟨_, _, _, rfl⟩⟩))
  | fatal r i => exact .inr (.inr (.inr ⟨r, i, access_fatal k hwalk w⟩))
  | done pa =>
    rw [access_done k hwalk]
    obtain ⟨-, h⟩ | ⟨id, off, hroute, hend⟩ | ⟨hroute, haligned, hend⟩ | ⟨-, -, h⟩ := accessAt_cases va w k pa s
    · exact .inr (.inr (.inr ⟨_, _, h⟩))
    · exact .inl ⟨pa, id, off, rfl, hroute, hend⟩
    · exact .inr (.inl ⟨pa, rfl, hroute, haligned, hend⟩)
    · refine .inr (.inr (.inl ⟨_, _, h, ?_⟩))
      split
      · exact .inr ⟨_, _, _, rfl⟩
      · exact .inl rfl

/-- The same with nothing said of where a completed access went. -/
theorem access_ends (va : Word) (w : Width) (p : Bool) (k : AccessKind) (s : State) :
    (∃ v t, access va w p k s = .ok v t ∧ t.cp = s.cp)
      ∨ (∃ st t, access va w p k s = .abort ⟨st, k.isWrite, k.isFetch⟩ t ∧ Aborted s t)
      ∨ ∃ r i, access va w p k s = .fatal r i s := by
  obtain ⟨-, id, off, -, -, ⟨-, h⟩ | ⟨v, -, h⟩⟩ | ⟨pa, -, -, -, ⟨-, h⟩ | ⟨v, -, h⟩⟩ | h | h := access_cases va w p k s
  · exact .inl ⟨_, _, h, rfl⟩
  · exact .inl ⟨_, _, h, rfl⟩
  · exact .inl ⟨_, _, h, rfl⟩
  · exact .inl ⟨_, _, h, memWrite_cp ..⟩
  · exact .inr (.inl h)
  · exact .inr (.inr h)

/-! ### Every way a body can end -/

/-- The outcome is a precise one (60_exceptions.md R126, R128): an abort is a FETCH's exactly if `isFetch`, and only records
a fault; a Fatal leaves the state as it was. -/
def Ended.Precise (isFetch : Bool) (s : State) : Ended Word → Prop
  | .ok _ t => t.fatal = s.fatal
  | .abort f t => f.isFetch = isFetch ∧ Aborted s t
  | .fatal _ _ t => t = s

theorem translate_precise (va : Word) (w p : Bool) (s : State) : (translate va w p false s).Precise false s := by
  obtain ⟨pa, -, h⟩ | ⟨st, -, h⟩ | ⟨r, i, -, h⟩ := translate_cases va w p false s <;> rw [h]
  · rfl
  · exact ⟨rfl, .inr ⟨_, _, _, rfl⟩⟩
  · rfl

theorem access_precise (va : Word) (w : Width) (p : Bool) (k : AccessKind) (s : State) :
    (access va w p k s).Precise k.isFetch s := by
  obtain ⟨v, t, h, -⟩ | ⟨st, t, h, ht⟩ | ⟨r, i, h⟩ := access_ends va w p k s <;> rw [h]
  · exact access_ok_fatal h
  · exact ⟨rfl, ht⟩
  · rfl

/-- A register or interrupt command completes with new contents of the three sub-units, or is fatal and changes nothing. -/
def Ended.Controls (s : State) (r : Ended Word) : Prop :=
  (∃ v t, r = .ok v t ∧ t = { s with cp := t.cp, tc := t.tc, ic := t.ic }) ∨ ∃ reason info, r = .fatal reason info s

theorem readOther_writeOnly {s : State} {key : Key} {e : ExtraSlot} (hslot : extraSlot s.cfg key = some e)
    (hp : e.policy = .wo) : readOther key s = .fatal .policyViolation (key.setWidth 32) s := by
  simp only [readOther, hslot, hp]

theorem writeOther_readOnly {s : State} {key : Key} {e : ExtraSlot} (hslot : extraSlot s.cfg key = some e)
    (hp : e.policy = .ro) (v : Word) : writeOther key v s = .fatal .policyViolation (key.setWidth 32) s := by
  simp only [writeOther, hslot, hp]

theorem readOther_cases (key : Key) (s : State) :
    (∃ v, readOther key s = .ok v s) ∨ ∃ r i, readOther key s = .fatal r i s := by
  cases hslot : extraSlot s.cfg key with
  | none => exact .inr ⟨_, _, readOther_unknown hslot⟩
  | some e =>
    by_cases hp : e.policy = .wo
    · exact .inr ⟨_, _, readOther_writeOnly hslot hp⟩
    · cases hread : e.read with
      | constant c => exact .inl ⟨_, readOther_constant hslot hp hread⟩
      | storage => exact .inl ⟨_, readOther_storage hslot hp hread⟩

theorem writeOther_cases (key : Key) (v : Word) (s : State) :
    writeOther key v s = .ok 0 s ∨ writeOther key v s = .ok 0 (s.setCp (s.cp.writeExtra key v))
      ∨ ∃ r i, writeOther key v s = .fatal r i s := by
  cases hslot : extraSlot s.cfg key with
  | none => exact .inr (.inr ⟨_, _, writeOther_unknown hslot v⟩)
  | some e =>
    by_cases hp : e.policy = .ro
    · exact .inr (.inr ⟨_, _, writeOther_readOnly hslot hp v⟩)
    · cases hwrite : e.write with
      | storage => exact .inr (.inl (writeOther_storage hslot hp hwrite v))
      | ignore => exact .inl (writeOther_ignore hslot hp hwrite v)

theorem writeSctlr_cases (v : Word) (s : State) :
    writeSctlr v s
        = .ok 0 ((s.setCp { s.cp with sctlr := sctlrStored s.cfg v }).setTc (deriveSctlr (sctlrStored s.cfg v) s.tc))
      ∨ writeSctlr v s = .fatal .vectoredIrq v s := by
  cases h : v.getLsbD 24 with
  | false => exact .inl (writeSctlr_stored h s)
  | true => exact .inr (writeSctlr_vectored h s)

theorem writeTtbcr_cases (v : Word) (s : State) :
    (splitField v = 0 ∧ writeTtbcr v s
        = .ok 0 ((s.setCp { s.cp with ttbcr := v }).setTc
          { s.tc with splitWidth := 0, tableBase0 := tableBase16K s.cp.ttbr0 }))
      ∨ writeTtbcr v s = .fatal .unimplementedSplit v s := by
  by_cases h : splitField v = 0
  · exact .inl ⟨h, writeTtbcr_stored h s⟩
  · exact .inr (writeTtbcr_split h s)

theorem raiseIrq_cases (irq : Irq) (s : State) :
    raiseIrq irq s = .ok 0 s
      ∨ (irqIllegal s.cfg irq = false ∧ s.ic.pending.getLast? ≠ some irq ∧ queueFull s.cfg s.ic.pending = false
        ∧ raiseIrq irq s = .ok 0 (s.setIc { s.ic with pending := s.ic.pending ++ [irq] }))
      ∨ ∃ r i, raiseIrq irq s = .fatal r i s := by
  cases hlegal : irqIllegal s.cfg irq with
  | true => exact .inr (.inr ⟨_, _, if_pos hlegal⟩)
  | false =>
    by_cases hlast : s.ic.pending.getLast? = some irq
    · exact .inl (raiseIrq_duplicate hlegal hlast)
    · cases hfull : queueFull s.cfg s.ic.pending with
      | true => exact .inr (.inr ⟨_, _, raiseIrq_full hlegal hlast hfull⟩)
      | false => exact .inr (.inl ⟨rfl, hlast, rfl, raiseIrq_room hlegal hlast hfull⟩)

theorem acceptIrq_cases (s : State) :
    (∃ irq rest, s.ic.pending = irq :: rest ∧ queueFull s.cfg s.ic.acknowledged = false
        ∧ acceptIrq s = .ok (irq.setWidth 32)
          (s.setIc { s.ic with pending := rest, acknowledged := s.ic.acknowledged ++ [irq] }))
      ∨ ∃ r i, acceptIrq s = .fatal r i s := by
  cases hq : s.ic.pending with
  | nil => exact .inr ⟨_, _, acceptIrq_empty hq⟩
  | cons irq rest =>
    cases hfull : queueFull s.cfg s.ic.acknowledged with
    | true => exact .inr ⟨_, _, acceptIrq_full hq hfull⟩
    | false => exact .inl ⟨irq, rest, rfl, rfl, acceptIrq_room hq hfull⟩

theorem completeIrq_cases (irq : Irq) (s : State) :
    (∃ rest, s.ic.acknowledged = irq :: rest ∧ completeIrq irq s = .ok 0 (s.setIc { s.ic with acknowledged := rest }))
      ∨ ∃ r i, completeIrq irq s = .fatal r i s := by
  cases hlegal : irqIllegal s.cfg irq with
  | true => exact .inr ⟨_, _, if_pos hlegal⟩
  | false =>
    by_cases hhead : s.ic.acknowledged.head? = some irq
    · obtain ⟨rest, hq⟩ := List.head?_eq_some_iff.mp hhead
      exact .inl ⟨rest, hq, completeIrq_head hlegal hq⟩
    · exact .inr ⟨_, _, completeIrq_mismatch hlegal hhead⟩

/-- The command goes to the AddressTranslator or the Bus. -/
def usesBus : Instr → Bool
  | .xlatUR _ | .xlatUW _ | .xlatPR _ | .xlatPW _ => true
  | .ldb _ _ | .ldh _ _ | .ldw _ _ | .fetch _ _ => true
  | .stb _ _ _ | .sth _ _ _ | .stw _ _ _ | .storeu _ _ => true
  | _ => false

theorem bodyOf_controls {i : Instr} (h : usesBus i = false) (s : State) : (bodyOf i s).Controls s := by
  cases i
  case cprOther key =>
    obtain ⟨v, h⟩ | ⟨r, i, h⟩ := readOther_cases key s
    · exact .inl ⟨_, _, h, rfl⟩
    · exact .inr ⟨r, i, h⟩
  case cpwOther key v =>
    obtain h | h | ⟨r, i, h⟩ := writeOther_cases key v s
    · exact .inl ⟨_, _, h, rfl⟩
    · exact .inl ⟨_, _, h, rfl⟩
    · exact .inr ⟨r, i, h⟩
  case cpwSctlr v =>
    obtain h | h := writeSctlr_cases v s
    · exact .inl ⟨_, _, h, rfl⟩
    · exact .inr ⟨_, _, h⟩
  case cpwTtbcr v =>
    obtain ⟨-, h⟩ | h := writeTtbcr_cases v s
    · exact .inl ⟨_, _, h, rfl⟩
    · exact .inr ⟨_, _, h⟩
  case irqraise irq =>
    obtain h | ⟨-, -, -, h⟩ | ⟨r, i, h⟩ := raiseIrq_cases irq s
    · exact .inl ⟨_, _, h, rfl⟩
    · exact .inl ⟨_, _, h, rfl⟩
    · exact .inr ⟨r, i, h⟩
  case irqaccept =>
    obtain ⟨irq, rest, -, -, h⟩ | ⟨r, i, h⟩ := acceptIrq_cases s
    · exact .inl ⟨_, _, h, rfl⟩
    · exact .inr ⟨r, i, h⟩
  case irqeoi irq =>
    obtain ⟨rest, -, h⟩ | ⟨r, i, h⟩ := completeIrq_cases irq s
    · exact .inl ⟨_, _, h, rfl⟩
    · exact .inr ⟨r, i, h⟩
  case xlatUR | xlatUW | xlatPR | xlatPW | ldb | ldh | ldw | fetch | stb | sth | stw | storeu => cases h
  all_goals exact .inl ⟨_, _, rfl, rfl⟩

theorem Ended.Controls.precise {s : State} {r : Ended Word} (h : r.Controls s) : r.Precise false s := by
  obtain ⟨v, t, rfl, ht⟩ | ⟨reason, info, rfl⟩ := h
  · exact (congrArg State.fatal ht :)
  · rfl

theorem isFetchCommand_of_not_usesBus {i : Instr} (h : usesBus i = false) : isFetchCommand i = false := by
  cases i
  case fetch => cases h
  all_goals rfl

/-- Every command but STOREU, which is made of several stores, ends precisely. -/
theorem bodyOf_precise {i : Instr} (h : ∀ a d, i ≠ .storeu a d) (s : State) :
    (bodyOf i s).Precise (isFetchCommand i) s := by
  by_cases hbus : usesBus i = true
  · cases i
    case storeu a d => exact absurd rfl (h a d)
    case xlatUR | xlatUW | xlatPR | xlatPW => exact translate_precise _ _ _ s
    case ldb | ldh | ldw | fetch | stb | sth | stw => exact access_precise _ _ _ _ s
    all_goals cases hbus
  · rw [Bool.not_eq_true] at hbus
    rw [isFetchCommand_of_not_usesBus hbus]
    exact (bodyOf_controls hbus s).precise

/-! ### STOREU -/

/-- The pieces before the one that fails change RAM and the peripherals' record, and no more (43_bus.md R124). -/
theorem storePieces_abort {a : Word} {w : Width} {pieces : List (Word × Word)} {s t : State} {f : Abort}
    (h : storePieces a w pieces s = .abort f t) : f.isFetch = false := by
  induction pieces generalizing s with
  | nil => cases h
  | cons c rest ih =>
    rw [storePieces] at h
    obtain ⟨v, u, hpiece, -⟩ | ⟨st, u, hpiece, -⟩ | ⟨r, i, hpiece⟩ := access_ends (a + c.1) w true (.store c.2) s <;>
      rw [hpiece] at h
    · exact ih h
    · cases h
      rfl
    · cases h

theorem storePieces_fatal {a : Word} {w : Width} {pieces : List (Word × Word)} {s t : State} {r : FatalReason} {i : Word}
    (h : storePieces a w pieces s = .fatal r i t) : t.cp = s.cp := by
  induction pieces generalizing s with
  | nil => cases h
  | cons c rest ih =>
    rw [storePieces] at h
    obtain ⟨v, u, hpiece, hcp⟩ | ⟨st, u, hpiece, -⟩ | ⟨r, i, hpiece⟩ := access_ends (a + c.1) w true (.store c.2) s <;>
      rw [hpiece] at h
    · exact (ih h).trans hcp
    · cases h
    · cases h
      rfl

/-! ### The outcome of a command and its response -/

/-- A FATAL response is Halted, or the body's Fatal. -/
theorem exec_fatal {i : Instr} {s t : State} {r : FatalReason} (h : exec i s = .next t)
    (hr : t.response = some (.fatal r)) :
    (s.fatal ≠ none ∧ r = .halted ∧ t = s.respond (.fatal .halted))
      ∨ ∃ info u, s.fatal = none ∧ bodyOf i s = .fatal r info u ∧ t = (u.setFatal r info).respond (.fatal r) := by
  obtain ⟨hl, rfl⟩ | ⟨hl, ⟨v, u, hb, rfl⟩ | ⟨f, u, hb, rfl⟩ | ⟨r', info, u, hb, rfl⟩⟩ := exec_cases h <;> cases hr
  · exact .inl ⟨hl, rfl, rfl⟩
  · exact .inr ⟨info, u, hl, hb, rfl⟩

/-- An ABORT response is the body's Abort. -/
theorem exec_abort {i : Instr} {s t : State} {f : Abort} (h : exec i s = .next t) (hr : t.response = some (.abort f)) :
    ∃ u, bodyOf i s = .abort f u ∧ t = u.respond (.abort f) := by
  obtain ⟨hl, rfl⟩ | ⟨hl, ⟨v, u, hb, rfl⟩ | ⟨f', u, hb, rfl⟩ | ⟨r', info, u, hb, rfl⟩⟩ := exec_cases h <;> cases hr
  exact ⟨u, hb, rfl⟩

/-- A Fatal of a command, STOREU's included, leaves the block but RAM, and the Fatal record that was there. -/
theorem bodyOf_fatal {i : Instr} {s u : State} {r : FatalReason} {info : Word} (h : bodyOf i s = .fatal r info u) :
    u.tc = s.tc ∧ u.cp = s.cp ∧ u.ic = s.ic ∧ u.fatal = s.fatal := by
  by_cases hi : ∃ a d, i = .storeu a d
  · obtain ⟨a, d, rfl⟩ := hi
    have hframe := storeUnaligned_frame a d s
    rw [show storeUnaligned a d s = _ from h] at hframe
    refine ⟨hframe.tc, ?_, hframe.ic, hframe.fatal⟩
    cases hodd : a.getLsbD 0 with
    | false => exact storePieces_fatal ((storeUnaligned_even hodd d s).symm.trans h)
    | true => exact storePieces_fatal ((storeUnaligned_odd hodd d s).symm.trans h)
  · have hprecise := bodyOf_precise (fun a d hid => hi ⟨a, d, hid⟩) s
    rw [h] at hprecise
    obtain rfl : u = s := hprecise
    exact ⟨rfl, rfl, rfl, rfl⟩

theorem isFetchCommand_iff (i : Instr) : isFetchCommand i = true ↔ ∃ p a, i = .fetch p a := by
  cases i <;> simp [isFetchCommand]

/-- An Abort of a command, STOREU's included, says whether the command was a FETCH. -/
theorem bodyOf_abort {i : Instr} {s u : State} {f : Abort} (h : bodyOf i s = .abort f u) :
    f.isFetch = isFetchCommand i ∧ BusFrame s u := by
  by_cases hi : ∃ a d, i = .storeu a d
  · obtain ⟨a, d, rfl⟩ := hi
    have hframe := storeUnaligned_frame a d s
    rw [show storeUnaligned a d s = _ from h] at hframe
    refine ⟨?_, hframe⟩
    cases hodd : a.getLsbD 0 with
    | false => exact storePieces_abort ((storeUnaligned_even hodd d s).symm.trans h)
    | true => exact storePieces_abort ((storeUnaligned_odd hodd d s).symm.trans h)
  · have hprecise := bodyOf_precise (fun a d hid => hi ⟨a, d, hid⟩) s
    rw [h] at hprecise
    obtain ⟨hfetch, haborted⟩ := hprecise
    exact ⟨hfetch, haborted.frame⟩

theorem setFatal_respond_peripherals (s : State) (r : FatalReason) (info : Word) (q : Response) :
    SamePeripherals s ((s.setFatal r info).respond q) := ⟨by simp, by simp⟩

/-- Settles O51: the response is Halted, which changes nothing, or the Fatal of the body. -/
theorem aFatalChangesOnlyTheFatalRecord : Obligations.AFatalChangesOnlyTheFatalRecord := by
  unfold Obligations.AFatalChangesOnlyTheFatalRecord
  intro s t i r h hr
  obtain ⟨hcfg, hclient⟩ := exec_client h
  obtain ⟨hl, rfl, rfl⟩ | ⟨info, u, hl, hb, rfl⟩ := exec_fatal h hr
  · exact ⟨hcfg, rfl, rfl, rfl, hclient, fun _ => ⟨rfl, rfl⟩, fun hnone => absurd hnone hl, fun _ => ⟨rfl, rfl, rfl⟩⟩
  · obtain ⟨htc, hcp, hic, hfatal⟩ := bodyOf_fatal hb
    refine ⟨hcfg, by simpa using htc, by simpa using hcp, by simpa using hic, hclient, fun hset => absurd hl hset,
      fun _ => ⟨info, by simp [hfatal, hl]⟩, fun hi => ?unwritten⟩
    case unwritten =>
      have hprecise := bodyOf_precise hi s
      rw [hb] at hprecise
      obtain rfl : u = s := hprecise
      exact ⟨by simp, setFatal_respond_peripherals u r info _⟩

/-- Settles O52: an abort of the body records a fault, and every frame is a frame of that. -/
theorem abortsArePrecise : Obligations.AbortsArePrecise := by
  unfold Obligations.AbortsArePrecise
  intro s t i f h hr
  obtain ⟨u, hb, rfl⟩ := exec_abort h hr
  obtain ⟨hfetch, hframe⟩ := bodyOf_abort hb
  refine ⟨hframe.cfg, hframe.tc, hframe.ic, hframe.fatal, hframe.client, hframe.cp, ?_, fun hi => ?unwritten⟩
  · rw [hfetch, isFetchCommand_iff]
  case unwritten =>
    have hprecise := bodyOf_precise hi s
    rw [hb] at hprecise
    exact ⟨hprecise.2.ram, hprecise.2.peripherals⟩

/-! ### What only stores change -/

@[simp] theorem conclude_ram (r : Ended Word) : (conclude r).ram = r.state.ram := by
  cases r <;> simp [Ended.state]

@[simp] theorem conclude_tc (r : Ended Word) : (conclude r).tc = r.state.tc := by
  cases r <;> simp [Ended.state]

theorem sameBytes_of_ram {s t : State} (hc : t.cfg = s.cfg) (hr : t.ram = s.ram) : SameBytes s t := fun a => by
  simp [State.readByte, hc, hr]

theorem translate_ram (va : Word) (w p f : Bool) (s : State) : (translate va w p f s).state.ram = s.ram := by
  obtain ⟨pa, -, h⟩ | ⟨st, -, h⟩ | ⟨r, i, -, h⟩ := translate_cases va w p f s <;> rw [h] <;> rfl

theorem access_read_ram {k : AccessKind} (hk : k.reads = true) (va : Word) (w : Width) (p : Bool) (s : State) :
    (access va w p k s).state.ram = s.ram := by
  obtain ⟨-, id, off, -, -, ⟨-, h⟩ | ⟨v, rfl, -⟩⟩ | ⟨pa, -, -, -, ⟨-, h⟩ | ⟨v, rfl, -⟩⟩ | ⟨st, t, h, ht⟩ | ⟨r, i, h⟩ :=
    access_cases va w p k s
  · rw [h]; rfl
  · cases hk
  · rw [h]; rfl
  · cases hk
  · rw [h]; exact ht.ram
  · rw [h]; rfl

theorem Ended.Controls.ram {s : State} {r : Ended Word} (h : r.Controls s) : r.state.ram = s.ram := by
  obtain ⟨v, t, rfl, ht⟩ | ⟨reason, info, rfl⟩ := h
  · exact (congrArg State.ram ht :)
  · rfl

theorem bodyOf_ram {i : Instr} (h : isStore i = false) (s : State) : (bodyOf i s).state.ram = s.ram := by
  by_cases hbus : usesBus i = true
  · cases i
    case xlatUR | xlatUW | xlatPR | xlatPW => exact translate_ram _ _ _ _ s
    case ldb | ldh | ldw | fetch => exact access_read_ram rfl _ _ _ s
    case stb | sth | stw | storeu => cases h
    all_goals cases hbus
  · exact (bodyOf_controls (by simpa using hbus) s).ram

theorem exec_ram {i : Instr} {s t : State} (hi : isStore i = false) (h : exec i s = .next t) : t.ram = s.ram := by
  by_cases hl : s.fatal = none
  · rw [exec_live hl] at h
    cases h
    rw [conclude_ram, bodyOf_ram hi]
  · rw [exec_halted hl] at h
    cases h
    rfl

/-- Settles O32: the body of every command that is no store leaves RAM as it was, and every command leaves the client. -/
theorem onlyStoresChangeMemory : Obligations.OnlyStoresChangeMemory := by
  unfold Obligations.OnlyStoresChangeMemory
  intro s t i h
  obtain ⟨hcfg, hclient⟩ := exec_client h
  exact ⟨fun hi => ⟨exec_ram hi h, sameBytes_of_ram hcfg (exec_ram hi h)⟩, hcfg, hclient⟩

/-! ### What only six commands change -/

/-- Everything a command can do to the TranslationContext (10_state.md R17 to R24). -/
theorem bodyOf_tc (i : Instr) (s : State) :
    (bodyOf i s).state.tc = s.tc
      ∨ (∃ v, i = .cpwSctlr v ∧ (bodyOf i s).state.tc = deriveSctlr (sctlrStored s.cfg v) s.tc)
      ∨ (∃ v, i = .cpwTtbr0 v ∧ (bodyOf i s).state.tc = { s.tc with tableBase0 := tableBase s.tc.splitWidth v })
      ∨ (∃ v, i = .cpwTtbr1 v ∧ (bodyOf i s).state.tc = { s.tc with tableBase1 := tableBase16K v })
      ∨ (∃ v, i = .cpwTtbcr v
        ∧ (bodyOf i s).state.tc = { s.tc with splitWidth := 0, tableBase0 := tableBase16K s.cp.ttbr0 })
      ∨ (∃ v, i = .cpwDacr v ∧ (bodyOf i s).state.tc = { s.tc with domainRights := decodeDacr v })
      ∨ ∃ v, i = .cpwContextidr v ∧ (bodyOf i s).state.tc = { s.tc with asid := asidField v } := by
  cases i
  case cpwTtbr0 v => exact .inr (.inr (.inl ⟨v, rfl, rfl⟩))
  case cpwTtbr1 v => exact .inr (.inr (.inr (.inl ⟨v, rfl, rfl⟩)))
  case cpwDacr v => exact .inr (.inr (.inr (.inr (.inr (.inl ⟨v, rfl, rfl⟩)))))
  case cpwContextidr v => exact .inr (.inr (.inr (.inr (.inr (.inr ⟨v, rfl, rfl⟩)))))
  case cpwSctlr v =>
    obtain h | h := writeSctlr_cases v s
    · exact .inr (.inl ⟨v, rfl, congrArg (fun r => r.state.tc) h⟩)
    · exact .inl (congrArg (fun r => r.state.tc) h)
  case cpwTtbcr v =>
    obtain ⟨-, h⟩ | h := writeTtbcr_cases v s
    · exact .inr (.inr (.inr (.inr (.inl ⟨v, rfl, congrArg (fun r => r.state.tc) h⟩))))
    · exact .inl (congrArg (fun r => r.state.tc) h)
  all_goals refine .inl ?_
  case xlatUR | xlatUW | xlatPR | xlatPW => exact (translate_frame _ _ _ _ s).tc
  case ldb | ldh | ldw | fetch | stb | sth | stw => exact (access_frame _ _ _ _ s).tc
  case storeu => exact (storeUnaligned_frame _ _ s).tc
  case cprOther key => exact congrArg State.tc (readOther_state key s)
  case cpwOther key v =>
    obtain h | h | ⟨r, i, h⟩ := writeOther_cases key v s <;> exact congrArg (fun r => r.state.tc) h
  case irqraise irq =>
    obtain h | ⟨-, -, -, h⟩ | ⟨r, i, h⟩ := raiseIrq_cases irq s <;> exact congrArg (fun r => r.state.tc) h
  case irqaccept =>
    obtain ⟨irq, rest, -, -, h⟩ | ⟨r, i, h⟩ := acceptIrq_cases s <;> exact congrArg (fun r => r.state.tc) h
  case irqeoi irq =>
    obtain ⟨rest, -, h⟩ | ⟨r, i, h⟩ := completeIrq_cases irq s <;> exact congrArg (fun r => r.state.tc) h
  all_goals rfl

/-- Settles O33: each of the six commands is the only writer of the fields it derives. -/
theorem onlyItsWritersChangeTheTranslationContext : Obligations.OnlyItsWritersChangeTheTranslationContext := by
  unfold Obligations.OnlyItsWritersChangeTheTranslationContext
  intro s t i h
  by_cases hl : s.fatal = none
  · rw [exec_live hl] at h
    cases h
    obtain htc | ⟨v, rfl, htc⟩ | ⟨v, rfl, htc⟩ | ⟨v, rfl, htc⟩ | ⟨v, rfl, htc⟩ | ⟨v, rfl, htc⟩ | ⟨v, rfl, htc⟩ :=
      bodyOf_tc i s <;> simp [htc, deriveSctlr]
  · rw [exec_halted hl] at h
    cases h
    simp

/-! ### Single commands -/

/-- Settles O34: the body of each of the ten answers the raw value. -/
theorem cprReturnsTheRawValue : Obligations.CprReturnsTheRawValue := by
  unfold Obligations.CprReturnsTheRawValue
  intro s hl
  exact ⟨exec_live hl .cprSctlr, exec_live hl .cprTtbr0, exec_live hl .cprTtbr1, exec_live hl .cprTtbcr,
    exec_live hl .cprDacr, exec_live hl .cprDfsr, exec_live hl .cprIfsr, exec_live hl .cprDfar, exec_live hl .cprIfar,
    exec_live hl .cprContextidr⟩

/-- Settles O42: the slot's policy refuses before anything is read or stored. -/
theorem policyViolationIsFatal : Obligations.PolicyViolationIsFatal := by
  unfold Obligations.PolicyViolationIsFatal
  intro s key v e hl hslot
  exact ⟨fun hp => exec_of_body_fatal hl (readOther_writeOnly hslot hp),
    fun hp => exec_of_body_fatal hl (writeOther_readOnly hslot hp v)⟩

/-- Settles O50: the Halted check comes before every body. -/
theorem aHaltedBlockChangesNothing : Obligations.AHaltedBlockChangesNothing := by
  unfold Obligations.AHaltedBlockChangesNothing
  intro s h
  exact ⟨fun i => exec_halted h i, fun cmd => command_halted h (illegal cmd)⟩

/-- The R word of an abort as a number: three fields that share no bit (30_encoding.md R69). -/
theorem abortWord_eq (f : Abort) :
    abortWord f = BitVec.ofNat 32 ((faultCode f.status).toNat + 2 ^ 11 * f.isWrite.toNat + 2 ^ 16 * f.isFetch.toNat) := by
  obtain ⟨status, isWrite, isFetch⟩ := f
  cases status <;> cases isWrite <;> cases isFetch <;> rfl

/-- Settles O49: the status by the outcome, and the word of an abort by its three fields. -/
theorem responsesEncodeTheOutcome : Obligations.ResponsesEncodeTheOutcome := by
  unfold Obligations.ResponsesEncodeTheOutcome
  refine ⟨fun v => ⟨rfl, rfl⟩, fun f => ⟨rfl, abortWord_eq f⟩, fun r => ⟨rfl, rfl⟩, fun r => ?_, rfl⟩
  cases r <;> simp [responseStatus]

/-- In a live state an illegal word leaves the Fatal record and the response, and nothing else of the state changes
(30_encoding.md R70). -/
theorem execIllegal_eq {s : State} (hl : s.live) (cmd : Word) :
    execIllegal cmd s
      = .next { s with fatal := some ⟨.illegalCommand, cmd⟩, response := some (.fatal .illegalCommand) } := by
  rw [execIllegal_live hl, setFatal_none hl]
  rfl

theorem irqIllegal_iff (c : Config) (irq : Irq) : irqIllegal c irq = true ↔ c.irqCount ≤ irq.toNat := by
  simp [irqIllegal]

theorem runCommand_illegal {c : Command} {e : Illegal} (hd : decodeCommand c = .error e) {s t : State}
    (h : execIllegal c.cmd s = .next t) : runCommand c s = .next (observe s false t) := by
  simp only [runCommand, hd, h, andNext]

/-- A FATAL response of the first Fatal, observed: the run is stopped and the Fatal reported (60_exceptions.md R143). -/
theorem observe_first_fatal {before s : State} {x : FatalReason} {r : FatalRecord} (hx : s.response = some (.fatal x))
    (hb : before.fatal = none) (hr : s.fatal = some r) (b : Bool) :
    observe before b s
      = (endBatch ((s.markFetched b).setRunning false)).notify (.fatal r.reason r.info s.sched.pc) := by
  obtain ⟨x', -, h⟩ | ⟨f, hf, -⟩ | ⟨-, hn, -⟩ := observe_cases before b s
  · rw [h]
    exact observeFatal_first (s := s.markFetched b) hx hb hr
  · cases hx.symm.trans hf
  · exact absurd hx (hn x)

/-- Settles O7: the Fatal of an illegal word alone, what the port makes of it, and the two commands' own check of the id. -/
theorem illegalCommandIsFatalAndChangesNothingElse : Obligations.IllegalCommandIsFatalAndChangesNothingElse := by
  unfold Obligations.IllegalCommandIsFatalAndChangesNothingElse
  intro s hl
  refine ⟨execIllegal_eq hl, fun c rest e hin hd => ?port, fun irq hid => ?id⟩
  case port =>
    have hstep := (step_command hin).trans (runCommand_illegal hd (execIllegal_eq (s := s.took rest) hl c.cmd))
    rw [observe_first_fatal (before := s.took rest) (r := ⟨.illegalCommand, c.cmd⟩) rfl hl rfl] at hstep
    exact ⟨_, hstep, rfl, rfl, rfl, rfl, rfl, rfl, rfl, rfl, rfl, rfl⟩
  case id =>
    have hillegal := (irqIllegal_iff s.cfg irq).mpr hid
    exact ⟨exec_of_body_fatal hl (i := .irqraise irq) (if_pos hillegal),
      exec_of_body_fatal hl (i := .irqeoi irq) (if_pos hillegal)⟩

@[simp] theorem markFetched_false (s : State) : s.markFetched false = s := by
  simp [State.markFetched]

/-- Settles O9: the step is `runCommand`, and between batches nothing is made of a response that is no FATAL. -/
theorem stepRunsTheCommandOnThePort : Obligations.StepRunsTheCommandOnThePort := by
  unfold Obligations.StepRunsTheCommandOnThePort
  intro s c rest i hin hd s'
  obtain ⟨t, ht⟩ := exec_next i s'
  have hstep : step s = .next (observeInstr s' i t) := (step_command hin).trans (runCommand_ok hd ht)
  refine ⟨t, ht, hstep, fun hbetween hfetch hno => ?_⟩
  obtain ⟨-, -, -, hphase, -⟩ := exec_client ht
  have hphase' : t.phase = .between := hphase.symm.trans hbetween
  rw [hstep, observeInstr, hfetch]
  obtain ⟨r, hr, -⟩ | ⟨f, -, hexecute, -⟩ | ⟨-, -, h⟩ := observe_cases s' false t
  · exact absurd hr (hno r)
  · cases hphase'.symm.trans hexecute
  · rw [h, markFetched_false]

/-- Settles O10: both inputs run the same command on the same state. -/
theorem raiseInputDeliversIrqraiseAndEmptyInputsWait : Obligations.RaiseInputDeliversIrqraiseAndEmptyInputsWait := by
  unfold Obligations.RaiseInputDeliversIrqraiseAndEmptyInputsWait
  refine ⟨fun s irq rest hin => ?_, fun s hin => step_nil hin⟩
  rw [step_cons hin, step_command (s := { s with inbox := .command ⟨0x60000000 ||| irq.setWidth 32, 0, 0⟩ :: rest }) rfl]
  rfl

end Sys2Proof.Machine
end

section
/-! The block's invariant (10_state.md R29 to R35): it depends on the sub-units and RAM alone, the body of every command
keeps it, and so do the moves of the Scheduler and of the host. -/

namespace Sys2Proof.Machine

/-! ### What the invariant depends on -/

theorem State.Inv.of_sameBlock {s t : State} (h : s.Inv) (hb : SameBlock s t) : t.Inv := by
  obtain ⟨hcfg, htc, hcp, hic, hram, -⟩ := hb
  unfold State.Inv at *
  rwa [← hcfg, ← htc, ← hcp, ← hic, ← hram]

/-- The fault registers derive no field. -/
theorem agrees_of_sameButFaultRegisters {c : Config} {tc : TranslationContext} {a b : ControlRegs}
    (h : SameButFaultRegisters a b) : agrees c tc b = agrees c tc a := by
  rw [show b = _ from h]
  rfl

theorem extraOk_of_sameButFaultRegisters {a b : ControlRegs} (h : SameButFaultRegisters a b) : extraOk b = extraOk a := by
  rw [show b = _ from h]
  rfl

/-- What touches nothing but RAM and the fault registers keeps the invariant if it keeps RAM's. -/
theorem State.Inv.of_busFrame {s t : State} (h : s.Inv) (hf : BusFrame s t) (hram : ramOk s.cfg t.ram = true) : t.Inv := by
  obtain ⟨hcfg, hagrees, hqueues, -, hextra⟩ := h
  refine ⟨?_, ?_, ?_, ?_, ?_⟩
  · rw [hf.cfg]; exact hcfg
  · rw [hf.cfg, hf.tc, agrees_of_sameButFaultRegisters hf.cp]; exact hagrees
  · rw [hf.cfg, hf.ic]; exact hqueues
  · rw [hf.cfg]; exact hram
  · rw [extraOk_of_sameButFaultRegisters hf.cp]; exact hextra

theorem State.Inv.ram {s : State} (h : s.Inv) : ramOk s.cfg s.ram = true := by
  obtain ⟨-, -, -, hram, -⟩ := h
  exact hram

/-! ### Translations and accesses -/

theorem translate_inv (va : Word) (w p f : Bool) {s : State} (h : s.Inv) : (translate va w p f s).state.Inv :=
  h.of_busFrame (translate_frame va w p f s) (by rw [translate_ram]; exact h.ram)

theorem accessAt_inv (va : Word) (w : Width) (k : AccessKind) (pa : Word) {s : State} (h : s.Inv) :
    (accessAt va w k pa s).state.Inv := by
  refine h.of_busFrame (accessAt_frame va w k pa s) ?_
  obtain ⟨-, hend⟩ | ⟨id, off, -, ⟨-, hend⟩ | ⟨v, -, hend⟩⟩ | ⟨hroute, haligned, ⟨-, hend⟩ | ⟨v, -, hend⟩⟩ | ⟨-, -, hend⟩ :=
    accessAt_cases va w k pa s <;> rw [hend]
  · exact h.ram
  · exact h.ram
  · exact h.ram
  · exact h.ram
  · exact memWrite_ramOk h.1 h.ram hroute haligned v
  · simp only [Ended.state]
    split <;> exact h.ram

theorem access_inv (va : Word) (w : Width) (p : Bool) (k : AccessKind) (s : State) :
    s.Inv → (access va w p k s).state.Inv :=
  andThen_state (P := fun s t => s.Inv → t.Inv) (fun _ _ _ hst htu h => htu (hst h)) (translate_inv va _ p _)
    fun pa _ => accessAt_inv va w k pa

theorem storePieces_inv (a : Word) (w : Width) (pieces : List (Word × Word)) (s : State) :
    s.Inv → (storePieces a w pieces s).state.Inv := by
  induction pieces generalizing s with
  | nil => exact id
  | cons c rest ih =>
    exact andThen_state (P := fun s t => s.Inv → t.Inv) (fun _ _ _ hst htu h => htu (hst h)) (access_inv _ _ _ _ s)
      fun _ t => ih t

theorem storeUnaligned_inv (a d : Word) {s : State} (h : s.Inv) : (storeUnaligned a d s).state.Inv := by
  unfold storeUnaligned
  split <;> exact storePieces_inv _ _ _ s h

/-! ### Control registers -/

theorem sctlrStored_fixedBit (c : Config) (v : Word) : (sctlrStored c v).getLsbD c.sctlrFixedBit.val = true := by
  simp [sctlrStored]

/-- New slots and derived fields that agree keep the invariant. -/
theorem State.Inv.setCp_setTc {s : State} (h : s.Inv) {cp : ControlRegs} {tc : TranslationContext}
    (hagrees : agrees s.cfg tc cp = true) (hextra : extraOk cp = true) : ((s.setCp cp).setTc tc).Inv := by
  obtain ⟨hcfg, -, hqueues, hram, -⟩ := h
  exact ⟨hcfg, hagrees, hqueues, hram, hextra⟩

section
variable {s : State} (h : s.Inv)
include h

theorem State.Inv.extra : extraOk s.cp = true := by
  obtain ⟨-, -, -, -, hextra⟩ := h
  exact hextra

theorem writeSctlr_inv (v : Word) : (writeSctlr v s).state.Inv := by
  obtain hend | hend := writeSctlr_cases v s <;> rw [hend]
  · obtain ⟨-, -, hsplit, hbases, hrights, hasid⟩ := (agrees_iff _ _ _).mp h.2.1
    exact h.setCp_setTc ((agrees_iff _ _ _).mpr
      ⟨⟨rfl, rfl, rfl⟩, sctlrStored_fixedBit s.cfg v, hsplit, hbases, hrights, hasid⟩) h.extra
  · exact h

/-- The invariant's split width is 0, so the base is masked as R35 says (41_cp15.md R101). -/
theorem writeTtbr0_inv (v : Word) : (writeTtbr0 v s).state.Inv := by
  obtain ⟨henables, hfixed, hsplit, ⟨-, hbase1⟩, hrights, hasid⟩ := (agrees_iff _ _ _).mp h.2.1
  refine h.setCp_setTc ((agrees_iff _ _ _).mpr ⟨henables, hfixed, hsplit, ⟨?_, hbase1⟩, hrights, hasid⟩) h.extra
  rw [h.splitWidth_eq_zero]
  exact tableBase_zero v

theorem writeTtbr1_inv (v : Word) : (writeTtbr1 v s).state.Inv := by
  obtain ⟨henables, hfixed, hsplit, ⟨hbase0, -⟩, hrights, hasid⟩ := (agrees_iff _ _ _).mp h.2.1
  exact h.setCp_setTc ((agrees_iff _ _ _).mpr ⟨henables, hfixed, hsplit, ⟨hbase0, rfl⟩, hrights, hasid⟩) h.extra

theorem writeTtbcr_inv (v : Word) : (writeTtbcr v s).state.Inv := by
  obtain ⟨hzero, hend⟩ | hend := writeTtbcr_cases v s <;> rw [hend]
  · obtain ⟨henables, hfixed, -, ⟨-, hbase1⟩, hrights, hasid⟩ := (agrees_iff _ _ _).mp h.2.1
    exact h.setCp_setTc ((agrees_iff _ _ _).mpr
      ⟨henables, hfixed, ⟨hzero.symm, rfl⟩, ⟨rfl, hbase1⟩, hrights, hasid⟩) h.extra
  · exact h

theorem writeDacr_inv (v : Word) : (writeDacr v s).state.Inv := by
  obtain ⟨henables, hfixed, hsplit, hbases, -, hasid⟩ := (agrees_iff _ _ _).mp h.2.1
  exact h.setCp_setTc ((agrees_iff _ _ _).mpr ⟨henables, hfixed, hsplit, hbases, rfl, hasid⟩) h.extra

theorem writeContextidr_inv (v : Word) : (writeContextidr v s).state.Inv := by
  obtain ⟨henables, hfixed, hsplit, hbases, hrights, -⟩ := (agrees_iff _ _ _).mp h.2.1
  exact h.setCp_setTc ((agrees_iff _ _ _).mpr ⟨henables, hfixed, hsplit, hbases, hrights, rfl⟩) h.extra

theorem writeOther_inv (key : Key) (v : Word) : (writeOther key v s).state.Inv := by
  obtain hend | hend | ⟨r, i, hend⟩ := writeOther_cases key v s <;> rw [hend]
  · exact h
  · exact h.setCp_setTc (cp := s.cp.writeExtra key v) h.2.1 (sparseSet_wf (dflt := fun _ => 0) h.extra rfl v)
  · exact h

end

/-! ### The queues -/

theorem withinDepth_append {c : Config} {q : List Irq} (h : withinDepth c q = true) (hroom : queueFull c q = false)
    (irq : Irq) : withinDepth c (q ++ [irq]) = true := by
  unfold withinDepth queueFull at *
  cases hd : c.irqQueueDepth with
  | none => rfl
  | some n =>
    simp only [hd, decide_eq_true_eq, beq_eq_false_iff_ne, List.length_append, List.length_singleton] at *
    omega

theorem withinDepth_tail {c : Config} {irq : Irq} {q : List Irq} (h : withinDepth c (irq :: q) = true) :
    withinDepth c q = true := by
  unfold withinDepth at *
  cases hd : c.irqQueueDepth with
  | none => rfl
  | some n =>
    simp only [hd, decide_eq_true_eq, List.length_cons] at *
    omega

theorem noAdjacentEqual_tail {irq : Irq} {q : List Irq} (h : noAdjacentEqual (irq :: q) = true) :
    noAdjacentEqual q = true := by
  cases q with
  | nil => rfl
  | cons next rest =>
    simp only [noAdjacentEqual, Bool.and_eq_true] at h
    exact h.2

/-- A new youngest id that differs from the one before it (10_state.md R32 (b)). -/
theorem noAdjacentEqual_append {q : List Irq} {irq : Irq} (h : noAdjacentEqual q = true) (hlast : q.getLast? ≠ some irq) :
    noAdjacentEqual (q ++ [irq]) = true := by
  induction q with
  | nil => rfl
  | cons first rest ih =>
    cases rest with
    | nil => simpa [noAdjacentEqual] using hlast
    | cons next rest =>
      simp only [noAdjacentEqual, Bool.and_eq_true] at h
      simp only [List.cons_append, noAdjacentEqual, Bool.and_eq_true]
      exact ⟨h.1, ih h.2 (by simpa using hlast)⟩

/-- The queues' invariants, one by one (10_state.md R29, R30, R32). -/
theorem queuesOk_iff (c : Config) (ic : InterruptController) :
    queuesOk c ic = true ↔
      withinDepth c ic.pending = true ∧ withinDepth c ic.acknowledged = true ∧ noAdjacentEqual ic.pending = true
        ∧ idsValid c ic.pending = true ∧ idsValid c ic.acknowledged = true := by
  simp only [queuesOk, Bool.and_eq_true, and_assoc]

theorem idsValid_append {c : Config} {q : List Irq} {irq : Irq} (h : idsValid c q = true) (hlegal : irqIllegal c irq = false) :
    idsValid c (q ++ [irq]) = true := by
  simpa [idsValid, hlegal] using h

theorem idsValid_cons {c : Config} {q : List Irq} {irq : Irq} :
    idsValid c (irq :: q) = true ↔ irqIllegal c irq = false ∧ idsValid c q = true := by
  simp [idsValid]

theorem State.Inv.setIc {s : State} (h : s.Inv) {ic : InterruptController} (hq : queuesOk s.cfg ic = true) :
    (s.setIc ic).Inv := by
  obtain ⟨hcfg, hagrees, -, hram, hextra⟩ := h
  exact ⟨hcfg, hagrees, hq, hram, hextra⟩

section
variable {s : State} (h : s.Inv)
include h

theorem State.Inv.queues : withinDepth s.cfg s.ic.pending = true ∧ withinDepth s.cfg s.ic.acknowledged = true
    ∧ noAdjacentEqual s.ic.pending = true ∧ idsValid s.cfg s.ic.pending = true ∧ idsValid s.cfg s.ic.acknowledged = true := by
  obtain ⟨-, -, hqueues, -⟩ := h
  exact (queuesOk_iff _ _).mp hqueues

theorem raiseIrq_inv (irq : Irq) : (raiseIrq irq s).state.Inv := by
  obtain ⟨hdepth, hdepthAck, hadjacent, hids, hidsAck⟩ := h.queues
  obtain hend | ⟨hlegal, hlast, hroom, hend⟩ | ⟨r, i, hend⟩ := raiseIrq_cases irq s <;> rw [hend]
  · exact h
  · exact h.setIc ((queuesOk_iff _ _).mpr ⟨withinDepth_append hdepth hroom irq, hdepthAck,
      noAdjacentEqual_append hadjacent hlast, idsValid_append hids hlegal, hidsAck⟩)
  · exact h

theorem acceptIrq_inv : (acceptIrq s).state.Inv := by
  obtain ⟨hdepth, hdepthAck, hadjacent, hids, hidsAck⟩ := h.queues
  obtain ⟨irq, rest, hq, hroom, hend⟩ | ⟨r, i, hend⟩ := acceptIrq_cases s <;> rw [hend]
  · rw [hq] at hdepth hadjacent hids
    obtain ⟨hlegal, hidsRest⟩ := idsValid_cons.mp hids
    exact h.setIc ((queuesOk_iff _ _).mpr ⟨withinDepth_tail hdepth, withinDepth_append hdepthAck hroom irq,
      noAdjacentEqual_tail hadjacent, hidsRest, idsValid_append hidsAck hlegal⟩)
  · exact h

theorem completeIrq_inv (irq : Irq) : (completeIrq irq s).state.Inv := by
  obtain ⟨hdepth, hdepthAck, hadjacent, hids, hidsAck⟩ := h.queues
  obtain ⟨rest, hq, hend⟩ | ⟨r, i, hend⟩ := completeIrq_cases irq s <;> rw [hend]
  · rw [hq] at hdepthAck hidsAck
    obtain ⟨-, hidsRest⟩ := idsValid_cons.mp hidsAck
    exact h.setIc ((queuesOk_iff _ _).mpr ⟨hdepth, withinDepth_tail hdepthAck, hadjacent, hids, hidsRest⟩)
  · exact h

/-! ### Every command -/

theorem bodyOf_inv (i : Instr) : (bodyOf i s).state.Inv := by
  cases i
  case xlatUR | xlatUW | xlatPR | xlatPW => exact translate_inv _ _ _ _ h
  case ldb | ldh | ldw | fetch | stb | sth | stw => exact access_inv _ _ _ _ s h
  case storeu a d => exact storeUnaligned_inv a d h
  case cpwSctlr v => exact writeSctlr_inv h v
  case cpwTtbr0 v => exact writeTtbr0_inv h v
  case cpwTtbr1 v => exact writeTtbr1_inv h v
  case cpwTtbcr v => exact writeTtbcr_inv h v
  case cpwDacr v => exact writeDacr_inv h v
  case cpwContextidr v => exact writeContextidr_inv h v
  case cprOther key => rwa [show (bodyOf (.cprOther key) s).state = s from readOther_state key s]
  case cpwOther key v => exact writeOther_inv h key v
  case irqraise irq => exact raiseIrq_inv h irq
  case irqaccept => exact acceptIrq_inv h
  case irqeoi irq => exact completeIrq_inv h irq
  all_goals exact h

end

theorem conclude_inv {r : Ended Word} (h : r.state.Inv) : (conclude r).Inv := by
  cases r with
  | ok v s => exact h
  | abort f s => exact h
  | fatal reason info s =>
    exact State.Inv.of_sameBlock (s := { s with fatal := ((s.setFatal reason info).fatal) }) h
      ⟨by simp, by simp, by simp, by simp, by simp, by simp⟩

/-- A command that answers a next state keeps the invariant, an illegal word as well. -/
theorem command_inv {body : State → Ended Word} {s t : State} (hs : s.Inv) (hbody : (body s).state.Inv)
    (h : command body s = .next t) : t.Inv := by
  by_cases hl : s.fatal = none
  · rw [command_live hl] at h
    cases h
    exact conclude_inv hbody
  · rw [command_halted hl] at h
    cases h
    exact hs

theorem exec_inv {i : Instr} {s t : State} (hs : s.Inv) (h : exec i s = .next t) : t.Inv :=
  command_inv hs (bodyOf_inv hs i) ((exec_eq_command i s).symm.trans h)

end Sys2Proof.Machine
end

section
/-! Every move of the Scheduler, said once (60_exceptions.md R137 to R143): the command it issues, and what its own updates
do to the run, to the halted core and to the number of steps left of the batch. -/

namespace Sys2Proof.Machine

/-! ### States with the same block -/

theorem sameBlock_refl (s : State) : SameBlock s s := ⟨rfl, rfl, rfl, rfl, rfl, rfl⟩

theorem sameBlock_trans {s t u : State} (h : SameBlock s t) (g : SameBlock t u) : SameBlock s u := by
  obtain ⟨hcfg, htc, hcp, hic, hram, hfatal⟩ := h
  obtain ⟨gcfg, gtc, gcp, gic, gram, gfatal⟩ := g
  exact ⟨hcfg.trans gcfg, htc.trans gtc, hcp.trans gcp, hic.trans gic, hram.trans gram, hfatal.trans gfatal⟩

/-! ### A Scheduler update -/

/-- What one step may do to the phase and the number of steps left, from `p` and `n` to `p'` and `n'`
(60_exceptions.md R137). -/
def BatchStep (p : SchedPhase) (n : Nat) (p' : SchedPhase) (n' : Nat) : Prop :=
  n' ≤ n
    ∧ (p ≠ .top → p' = .top → n' = n - 1 ∧ 0 < n')
    ∧ (p ≠ .between → p' = .between → n' = 0)
    ∧ (p ≠ .between → p' ≠ .between → (p = .top ∨ p' ≠ .top) → n' = n)

theorem BatchStep.stays (p : SchedPhase) (n : Nat) : BatchStep p n p n :=
  ⟨le_refl n, fun hp hp' => absurd hp' hp, fun hp hp' => absurd hp' hp, fun _ _ _ => rfl⟩

theorem BatchStep.inside (p : SchedPhase) (n : Nat) {p' : SchedPhase} (htop : p' ≠ .top) (hbetween : p' ≠ .between) :
    BatchStep p n p' n :=
  ⟨le_refl n, fun _ hp' => absurd hp' htop, fun _ hp' => absurd hp' hbetween, fun _ _ _ => rfl⟩

theorem BatchStep.ends (p : SchedPhase) (n : Nat) : BatchStep p n .between 0 :=
  ⟨Nat.zero_le n, fun _ hp' => absurd hp' (by decide), fun _ _ => rfl, fun _ hp' => absurd rfl hp'⟩

/-- A step is used up: the batch goes back to the top, or ends. -/
theorem BatchStep.usesOne {p : SchedPhase} (hp : p ≠ .top) (n : Nat) :
    BatchStep p n (if n - 1 = 0 then .between else .top) (n - 1) := by
  by_cases hn : n - 1 = 0
  · rw [if_pos hn, hn]
    exact .ends p n
  · rw [if_neg hn]
    exact ⟨Nat.sub_le n 1, fun _ _ => ⟨rfl, Nat.pos_of_ne_zero hn⟩, fun _ hp' => absurd hp' (by decide),
      fun _ _ hor => absurd rfl (hor.resolve_left hp)⟩

/-- An update of the Scheduler that starts no run, begins no batch and wakes no halted core. -/
structure SchedStep (s t : State) : Prop where
  block : SameBlock s t
  running : t.sched.running = true → s.sched.running = true
  halted : s.sched.halted = true → t.sched.halted = true
  batch : BatchStep s.phase s.batchLeft t.phase t.batchLeft

theorem SchedStep.refl (s : State) : SchedStep s s := ⟨sameBlock_refl s, id, id, .stays _ _⟩

theorem setPhase_step (s : State) {p : SchedPhase} (htop : p ≠ .top) (hbetween : p ≠ .between) :
    SchedStep s (s.setPhase p) := ⟨sameBlock_refl s, id, id, .inside _ _ htop hbetween⟩

theorem endBatch_step (s : State) : SchedStep s (endBatch s) := ⟨sameBlock_refl s, id, id, .ends _ _⟩

theorem stopRun_step (s : State) : SchedStep s (stopRun s) := ⟨sameBlock_refl s, (by cases ·), id, .ends _ _⟩

theorem redirect_step (entry : Word) {s : State} (hp : s.phase ≠ .top) : SchedStep s (redirect entry s) :=
  ⟨sameBlock_refl s, id, id, .usesOne hp _⟩

theorem beforeFetch_step (s : State) : SchedStep s (beforeFetch s) := by
  unfold beforeFetch
  split
  · exact endBatch_step s
  · split
    · exact stopRun_step s
    · exact setPhase_step s (by decide) (by decide)

theorem retire_block (target : Option Word) (call : Bool) (s : State) : SameBlock s (retire target call s) := by
  have hbranch := notifyBranch_block target { s with sched := retired s.sched target }
  by_cases h : stopDue (retired s.sched target) target.isSome call = true
  · rw [retire_stops h]
    exact hbranch
  · rw [retire_goes_on h]
    exact hbranch

/-- The ExecutionState after step 8: the run may be stopped. -/
theorem retire_sched (target : Option Word) (call : Bool) (s : State) :
    (stopDue (retired s.sched target) target.isSome call = true
        ∧ (retire target call s).sched = { retired s.sched target with running := false })
      ∨ (¬stopDue (retired s.sched target) target.isSome call = true
        ∧ (retire target call s).sched = retired s.sched target) := by
  by_cases h : stopDue (retired s.sched target) target.isSome call = true
  · refine .inl ⟨h, ?_⟩
    rw [retire_stops h]
    cases target <;> rfl
  · refine .inr ⟨h, ?_⟩
    rw [retire_goes_on h]
    cases target <;> rfl

theorem retire_step (target : Option Word) (call : Bool) {s : State} (hp : s.phase ≠ .top) :
    SchedStep s (retire target call s) where
  block := retire_block target call s
  running := by
    obtain ⟨-, h⟩ | ⟨-, h⟩ := retire_sched target call s <;> rw [h]
    · exact (by cases ·)
    · exact id
  halted := by
    obtain ⟨-, h⟩ | ⟨-, h⟩ := retire_sched target call s <;> rw [h] <;> exact id
  batch := by
    obtain ⟨hleft, hphase⟩ | ⟨hphase, hleft⟩ := retire_batch target call s <;> rw [hleft, hphase]
    · exact .usesOne hp _
    · exact .ends _ _

/-- What the observed response of a FATAL leaves of the block and the run. -/
theorem observeFatal_step (before s : State) : SchedStep s (observeFatal before s) := by
  unfold observeFatal
  split
  · dsimp only
    split <;> exact ⟨sameBlock_refl s, (by cases ·), id, .ends _ _⟩
  · exact .refl s

theorem SchedStep.of_markFetched {s t : State} {b : Bool} (h : SchedStep (s.markFetched b) t) : SchedStep s t :=
  ⟨h.block, h.running, h.halted, h.batch⟩

theorem abortPhase_ne_top (f : Abort) : abortPhase f ≠ .top := by
  unfold abortPhase
  split <;> decide

theorem abortPhase_ne_between (f : Abort) : abortPhase f ≠ .between := by
  unfold abortPhase
  split <;> decide

theorem observe_step (before : State) (b : Bool) (s : State) : SchedStep s (observe before b s) := by
  obtain ⟨r, -, h⟩ | ⟨f, -, -, h⟩ | ⟨-, -, h⟩ := observe_cases before b s <;> rw [h]
  · exact (observeFatal_step before (s.markFetched b)).of_markFetched
  · exact (setPhase_step (s.markFetched b) (abortPhase_ne_top f) (abortPhase_ne_between f)).of_markFetched
  · exact (SchedStep.refl (s.markFetched b)).of_markFetched

/-! ### The moves that issue a command -/

/-- Step 1 asks IRQPEND, or does not (60_exceptions.md R138, R139). -/
theorem schedPoll_cases {mask : Bool} {s t : State} (h : schedPoll mask s = .next t) :
    t = beforeFetch s
      ∨ ∃ u, exec .irqpend s = .next u
        ∧ ((u.response = some (.ok 1) ∧ t = u.setPhase .accept) ∨ (∃ v, u.response = some (.ok v) ∧ t = beforeFetch u)
          ∨ ((∀ v, u.response ≠ some (.ok v)) ∧ t = observeFatal s u)) := by
  unfold schedPoll at h
  split at h
  · split at h
    · cases h
      exact .inl rfl
    · obtain ⟨u, hu⟩ := exec_next .irqpend s
      rw [show execIrqpend s = .next u from hu] at h
      refine .inr ⟨u, hu, ?_⟩
      simp only [andNext] at h
      split at h
      · rename_i v hv
        split at h <;> cases h
        · rename_i hone
          exact .inl ⟨hone ▸ hv, rfl⟩
        · exact .inr (.inl ⟨v, hv, rfl⟩)
      · rename_i hnot
        cases h
        exact .inr (.inr ⟨fun v hv => hnot v hv, rfl⟩)
  · cases h

/-- Step 1's acceptance issues IRQACCEPT (R139). -/
theorem schedAccept_cases {entry : Word} {s t : State} (h : schedAccept entry s = .next t) :
    ∃ u, exec .irqaccept s = .next u
      ∧ ((∃ v, u.response = some (.ok v) ∧ t = beforeFetch ((u.setHalted false).setPc entry))
        ∨ ((∀ v, u.response ≠ some (.ok v)) ∧ t = observeFatal s u)) := by
  unfold schedAccept at h
  split at h
  · obtain ⟨u, hu⟩ := exec_next .irqaccept s
    rw [show execIrqaccept s = .next u from hu] at h
    refine ⟨u, hu, ?_⟩
    simp only [andNext] at h
    split at h <;> cases h
    · rename_i v hv
      exact .inl ⟨v, hv, rfl⟩
    · rename_i hnot
      exact .inr ⟨fun v hv => hnot v hv, rfl⟩
  · cases h

/-- Steps 4 and 5 issue the FETCH of the pc (R138, R141). -/
theorem schedFetch_cases {priv : Bool} {entry : Word} {s t : State} (h : schedFetch priv entry s = .next t) :
    s.phase = .fetch ∧ ∃ u, exec (.fetch priv s.sched.pc) s = .next u
      ∧ ((∃ v, u.response = some (.ok v) ∧ (t = stopRun (u.markFetched true) ∨ t = (u.markFetched true).setPhase .decode))
        ∨ (∃ f, u.response = some (.abort f) ∧ t = redirect entry (u.markFetched true))
        ∨ t = observeFatal s (u.markFetched true)) := by
  unfold schedFetch at h
  split at h
  · rename_i hp
    obtain ⟨u, hu⟩ := exec_next (.fetch priv s.sched.pc) s
    rw [show execFetch priv s.sched.pc s = .next u from hu] at h
    refine ⟨hp, u, hu, ?_⟩
    simp only [andNext] at h
    split at h
    · rename_i v hv
      split at h <;> cases h
      · exact .inl ⟨v, hv, .inl rfl⟩
      · exact .inl ⟨v, hv, .inr rfl⟩
    · rename_i f hf
      cases h
      exact .inr (.inl ⟨f, hf, rfl⟩)
    · cases h
      exact .inr (.inr rfl)
  · cases h

/-! ### Every move -/

theorem schedDecoded_step {d : CoreDecode} {s t : State} (h : schedDecoded d s = .next t) : SchedStep s t := by
  unfold schedDecoded at h
  split at h
  · rename_i hp
    have hphase : s.phase ≠ .top := by rw [hp]; decide
    split at h <;> cases h
    · exact redirect_step _ hphase
    · exact retire_step _ _ hphase
    · exact setPhase_step s (by decide) (by decide)
  · cases h

theorem schedFinish_step {r : CoreResult} {s t : State} (h : schedFinish r s = .next t) : SchedStep s t := by
  unfold schedFinish at h
  split at h
  · rename_i target call wfi hp
    cases h
    have hretire := retire_step target call (s := s.setHalted (s.sched.halted || wfi)) (by rw [setHalted_phase, hp]; decide)
    exact ⟨hretire.block, hretire.running, fun hs => hretire.halted (by simp [hs]), hretire.batch⟩
  · rename_i hp
    cases h
    exact redirect_step _ (by rw [hp]; decide)
  · rename_i hp
    cases h
    exact redirect_step _ (by rw [hp]; decide)
  · rename_i hp
    cases h
    exact redirect_step _ (by rw [hp]; decide)
  · cases h

theorem schedConfigure_step {remaining : Option Nat} {opts : SchedOptions} {s t : State}
    (h : schedConfigure remaining opts s = .next t) : SchedStep s t := by
  unfold schedConfigure at h
  split at h <;> cases h
  exact ⟨sameBlock_refl s, id, id, .stays _ _⟩

theorem schedStart_cases {s t : State} (h : schedStart s = .next t) :
    (s.fatal ≠ none ∧ t = s)
      ∨ s.fatal = none ∧ t = { s with sched := { s.sched with running := true, started := true } } := by
  unfold schedStart at h
  split at h
  · split at h <;> cases h
    · rename_i hset
      exact .inl ⟨Option.isSome_iff_ne_none.mp hset, rfl⟩
    · rename_i hnone
      exact .inr ⟨by simpa using hnone, rfl⟩
  · cases h

theorem schedBeginBatch_cases {s t : State} (h : schedBeginBatch s = .next t) :
    t = s ∨ t = { s with batchLeft := batchSize s, phase := if batchSize s = 0 then .between else .top } := by
  unfold schedBeginBatch at h
  split at h
  · split at h <;> cases h
    · exact .inr rfl
    · exact .inl rfl
  · cases h

/-- `t` comes from `s` by a command of the Scheduler, whose FATAL response is observed and makes nothing else happen. -/
def AfterCommand (s u t : State) : Prop :=
  ∃ i b, exec i s = .next u ∧ ∀ x, u.response = some (.fatal x) → t = observeFatal s (u.markFetched b)

/-- A Scheduler move is at most one command and then an update of the Scheduler; what a start, an acceptance and the beginning
of a batch do beside is stated apart (60_exceptions.md R137 to R141). -/
theorem schedMove_cases {m : SchedMove} {s t : State} (h : schedMove m s = .next t) :
    (∃ u, (u = s ∨ AfterCommand s u t) ∧ SchedStep u t)
      ∨ (m = .start ∧ s.fatal = none ∧ t = { s with sched := { s.sched with running := true, started := true } })
      ∨ (m = .beginBatch
        ∧ t = { s with batchLeft := batchSize s, phase := if batchSize s = 0 then .between else .top })
      ∨ ∃ entry v u, m = .accept entry ∧ exec .irqaccept s = .next u ∧ u.response = some (.ok v)
        ∧ t = beforeFetch ((u.setHalted false).setPc entry) := by
  cases m with
  | start =>
    obtain ⟨-, rfl⟩ | ⟨hl, rfl⟩ := schedStart_cases h
    · exact .inl ⟨t, .inl rfl, .refl t⟩
    · exact .inr (.inl ⟨rfl, hl, rfl⟩)
  | cancel =>
    cases h
    exact .inl ⟨s, .inl rfl, sameBlock_refl s, (by cases ·), id, .stays _ _⟩
  | configure remaining opts => exact .inl ⟨s, .inl rfl, schedConfigure_step h⟩
  | beginBatch =>
    obtain rfl | rfl := schedBeginBatch_cases h
    · exact .inl ⟨t, .inl rfl, .refl t⟩
    · exact .inr (.inr (.inl ⟨rfl, rfl⟩))
  | poll mask =>
    obtain rfl | ⟨u, hu, ⟨hone, rfl⟩ | ⟨v, hv, rfl⟩ | ⟨-, rfl⟩⟩ := schedPoll_cases h
    · exact .inl ⟨s, .inl rfl, beforeFetch_step s⟩
    · exact .inl ⟨u, .inr ⟨_, false, hu, fun x hx => (by cases hone.symm.trans hx)⟩, setPhase_step u (by decide) (by decide)⟩
    · exact .inl ⟨u, .inr ⟨_, false, hu, fun x hx => (by cases hv.symm.trans hx)⟩, beforeFetch_step u⟩
    · exact .inl ⟨u, .inr ⟨_, false, hu, fun _ _ => (by rw [markFetched_false])⟩, observeFatal_step s u⟩
  | accept entry =>
    obtain ⟨u, hu, ⟨v, hv, rfl⟩ | ⟨-, rfl⟩⟩ := schedAccept_cases h
    · exact .inr (.inr (.inr ⟨entry, v, u, rfl, hu, hv, rfl⟩))
    · exact .inl ⟨u, .inr ⟨_, false, hu, fun _ _ => (by rw [markFetched_false])⟩, observeFatal_step s u⟩
  | fetch priv entry =>
    obtain ⟨hp, u, hu, hend⟩ := schedFetch_cases h
    refine .inl ⟨u, .inr ⟨_, true, hu, fun x hx => ?_⟩, SchedStep.of_markFetched (b := true) ?_⟩
    · obtain ⟨v, hv, -⟩ | ⟨f, hf, -⟩ | rfl := hend
      · cases hv.symm.trans hx
      · cases hf.symm.trans hx
      · rfl
    have hphase : (u.markFetched true).phase ≠ .top := by
      obtain ⟨-, -, -, hup, -⟩ := exec_client hu
      rw [markFetched_phase, ← hup, hp]
      decide
    obtain ⟨v, -, rfl | rfl⟩ | ⟨f, -, rfl⟩ | rfl := hend
    · exact stopRun_step _
    · exact setPhase_step _ (by decide) (by decide)
    · exact redirect_step entry hphase
    · exact observeFatal_step s _
  | decoded d => exact .inl ⟨s, .inl rfl, schedDecoded_step h⟩
  | finish r => exact .inl ⟨s, .inl rfl, schedFinish_step h⟩

/-! ### Commands on the port -/

theorem execIllegal_client {cmd : Word} {s t : State} (h : execIllegal cmd s = .next t) : ClientFrame s t := by
  obtain ⟨-, rfl⟩ | ⟨-, ⟨v, u, hb, -⟩ | ⟨f, u, hb, -⟩ | ⟨r, info, u, hb, rfl⟩⟩ := command_cases h
  · exact .of_eq rfl rfl rfl rfl rfl rfl rfl rfl
  · cases hb
  · cases hb
  · cases hb
    exact conclude_frame (.fatal .illegalCommand cmd s)

/-- A command on the port, an illegal word as well, is its body and then an update of the Scheduler. -/
theorem runCommand_cases {c : Command} {s t : State} (h : runCommand c s = .next t) :
    ∃ b u, ((∃ i, exec i s = .next u) ∨ execIllegal c.cmd s = .next u) ∧ ClientFrame s u ∧ t = observe s b u := by
  cases hd : decodeCommand c with
  | ok i =>
    obtain ⟨u, hu⟩ := exec_next i s
    rw [runCommand_ok hd hu] at h
    cases h
    exact ⟨_, u, .inl ⟨i, hu⟩, exec_client hu, rfl⟩
  | error e =>
    obtain ⟨u, hu⟩ := execIllegal_next c.cmd s
    rw [runCommand_illegal hd hu] at h
    cases h
    exact ⟨_, u, .inr hu, execIllegal_client hu, rfl⟩

/-- A raise and an MMIO access are commands too (42_interrupt.md R110, 60_exceptions.md R145). -/
theorem perform_cases {e : PortEvent} {s t : State} (h : perform e s = .next t) :
    (∃ c, runCommand c s = .next t) ∨ (∃ m, e = .sched m ∧ schedMove m s = .next t) ∨ ∃ m, e = .host m ∧ hostMove m s = .next t := by
  cases e with
  | command c => exact .inl ⟨c, h⟩
  | raise irq => exact .inl ⟨_, h⟩
  | mmio isWrite addr d =>
    refine .inl ?_
    rw [perform, runMmio] at h
    split at h
    · exact ⟨_, h⟩
    · cases h
  | sched m => exact .inr (.inl ⟨m, rfl, h⟩)
  | host m => exact .inr (.inr ⟨m, rfl, h⟩)

end Sys2Proof.Machine
end

section
/-! The host's moves (70_reset_and_hazards.md R154 to R156), and what the invariant makes of every step. -/

namespace Sys2Proof.Machine

/-! ### Direct writes -/

/-- A host write changes RAM and no more. -/
theorem writeBytes_eq (addr : Word) (bytes : List Byte) (s : State) :
    writeBytes addr bytes s = { s with ram := (writeBytes addr bytes s).ram } := by
  induction bytes generalizing addr s with
  | nil => rfl
  | cons b bs ih => exact ih (addr + 1) (s.writeByte addr.toNat b)

theorem writeBytes_ramOk {s : State} (h : ramOk s.cfg s.ram = true) {addr : Word} {bytes : List Byte}
    (hw : hostWritable s.cfg addr bytes = true) : ramOk s.cfg (writeBytes addr bytes s).ram = true := by
  induction bytes generalizing addr s with
  | nil => exact h
  | cons b bs ih =>
    simp only [hostWritable, Bool.and_eq_true] at hw
    exact ih (s := s.writeByte addr.toNat b) (writeByte_ramOk h hw.1 b) hw.2

/-! ### Snapshots -/

theorem restoreSnapshot_good {n : Snapshot} {s : State} (h : snapshotOk s.cfg n = true) :
    restoreSnapshot n s = { s with tc := n.tc, cp := n.cp, ic := n.ic, ram := n.ram, fatal := n.fatal, sched := n.sched } :=
  if_pos h

theorem restoreSnapshot_bad {n : Snapshot} {s : State} (h : ¬snapshotOk s.cfg n = true) : restoreSnapshot n s = s := if_neg h

/-- Everything a host move can do. -/
theorem hostMove_cases {m : HostMove} {s t : State} (h : hostMove m s = .next t) :
    (m = .takeSnapshot ∧ t = { s with saved := some (takeSnapshot s) })
      ∨ (∃ n, (m = .restore n ∨ m = .restoreSaved) ∧ t = restoreSnapshot n s)
      ∨ ∃ addr bytes, m = .writeRam addr bytes ∧ hostWritable s.cfg addr bytes = true ∧ t = writeBytes addr bytes s := by
  cases m with
  | takeSnapshot =>
    simp only [hostMove, hostSnapshot] at h
    split at h <;> cases h
    exact .inl ⟨rfl, rfl⟩
  | restore n =>
    simp only [hostMove, hostRestore] at h
    split at h <;> cases h
    exact .inr (.inl ⟨n, .inl rfl, rfl⟩)
  | restoreSaved =>
    simp only [hostMove, hostRestoreSaved, hostRestore] at h
    split at h
    · cases h
    · rename_i n _
      split at h <;> cases h
      exact .inr (.inl ⟨n, .inr rfl, rfl⟩)
  | writeRam addr bytes =>
    simp only [hostMove, hostWriteRam] at h
    split at h
    · cases h
    · split at h <;> cases h
      rename_i hw
      exact .inr (.inr ⟨addr, bytes, rfl, hw, rfl⟩)

/-! ### The invariant -/

theorem restoreSnapshot_inv {n : Snapshot} {s : State} (h : s.Inv) : (restoreSnapshot n s).Inv := by
  by_cases hok : snapshotOk s.cfg n = true
  · rw [restoreSnapshot_good hok]
    simp only [snapshotOk, blockOk, Bool.and_eq_true] at hok
    obtain ⟨⟨⟨hagrees, hqueues⟩, hram⟩, hextra⟩ := hok
    obtain ⟨hcfg, -⟩ := h
    exact ⟨hcfg, hagrees, hqueues, hram, hextra⟩
  · rwa [restoreSnapshot_bad hok]

theorem hostMove_inv {m : HostMove} {s t : State} (hs : s.Inv) (h : hostMove m s = .next t) : t.Inv := by
  obtain ⟨-, rfl⟩ | ⟨n, -, rfl⟩ | ⟨addr, bytes, -, hw, rfl⟩ := hostMove_cases h
  · exact hs
  · exact restoreSnapshot_inv hs
  · obtain ⟨hcfg, hagrees, hqueues, hram, hextra⟩ := hs
    rw [writeBytes_eq]
    exact ⟨hcfg, hagrees, hqueues, writeBytes_ramOk hram hw, hextra⟩

theorem runCommand_inv {c : Command} {s t : State} (hs : s.Inv) (h : runCommand c s = .next t) : t.Inv := by
  obtain ⟨b, u, ⟨i, hu⟩ | hu, -, rfl⟩ := runCommand_cases h
  · exact (exec_inv hs hu).of_sameBlock (observe_step s b u).block
  · exact (command_inv (body := illegal c.cmd) hs hs hu).of_sameBlock (observe_step s b u).block

theorem schedMove_inv {m : SchedMove} {s t : State} (hs : s.Inv) (h : schedMove m s = .next t) : t.Inv := by
  obtain ⟨u, rfl | ⟨i, b, hu, -⟩, hstep⟩ | ⟨-, -, rfl⟩ | ⟨-, rfl⟩ | ⟨entry, v, u, -, hu, -, rfl⟩ := schedMove_cases h
  · exact hs.of_sameBlock hstep.block
  · exact (exec_inv hs hu).of_sameBlock hstep.block
  · exact hs
  · exact hs
  · have hinv : u.Inv := exec_inv hs hu
    have hwoken : ((u.setHalted false).setPc entry).Inv := hinv
    exact hwoken.of_sameBlock (beforeFetch_step _).block

/-- Settles O3: a step is nothing, a command, a move of the Scheduler or a move of the host, and each keeps it. -/
theorem everyStepKeepsTheInvariant : Obligations.EveryStepKeepsTheInvariant := by
  unfold Obligations.EveryStepKeepsTheInvariant
  intro s t hs h
  cases hin : s.inbox with
  | nil =>
    rw [step_nil hin] at h
    cases h
    exact hs
  | cons e rest =>
    rw [step_cons hin] at h
    have htook : (s.took rest).Inv := hs
    obtain ⟨c, hc⟩ | ⟨m, -, hm⟩ | ⟨m, -, hm⟩ := perform_cases h
    · exact runCommand_inv htook hc
    · exact schedMove_inv htook hm
    · exact hostMove_inv htook hm

/-! ### Reset -/

theorem withinDepth_nil (c : Config) : withinDepth c [] = true := by
  unfold withinDepth
  split
  · rfl
  · exact decide_eq_true (Nat.zero_le _)

theorem resetWith_inv {c : Config} (h : c.wf = true) : (State.resetWith c).Inv :=
  ⟨h, agrees_reset h, (queuesOk_iff _ _).mpr ⟨withinDepth_nil c, withinDepth_nil c, rfl, rfl, rfl⟩, rfl, rfl⟩

theorem default_wf : Config.default.wf = true := by decide

/-- Settles O2: at reset the queues, RAM and the extra slots are empty, and `agrees_reset` is R35. -/
theorem resetSatisfiesTheInvariant : Obligations.ResetSatisfiesTheInvariant := by
  unfold Obligations.ResetSatisfiesTheInvariant
  exact ⟨fun c h => resetWith_inv h, default_wf, resetWith_inv default_wf⟩

/-! ### Restoring a snapshot -/

theorem snapshotOk_takeSnapshot {s : State} (h : s.Inv) : snapshotOk s.cfg (takeSnapshot s) = true := by
  obtain ⟨-, hagrees, hqueues, hram, hextra⟩ := h
  simp only [snapshotOk, blockOk, takeSnapshot, hagrees, hqueues, hram, hextra, Bool.and_self]

theorem snapshotOk_eq_false {c : Config} {n : Snapshot} (h : agrees c n.tc n.cp = false) : ¬snapshotOk c n = true := by
  simp [snapshotOk, blockOk, h]

/-- Between batches the host's restore takes effect. -/
theorem step_restore {s : State} {n : Snapshot} {rest : List PortEvent} (hbetween : s.phase = .between)
    (hin : s.inbox = .host (.restore n) :: rest) : step s = .next (restoreSnapshot n (s.took rest)) :=
  (step_host hin).trans (if_pos hbetween)

/-- Settles O59: a snapshot of a state with the invariant passes the host's checks, one that breaks R35 does not. -/
theorem restoreGivesBackTheSnapshot : Obligations.RestoreGivesBackTheSnapshot := by
  unfold Obligations.RestoreGivesBackTheSnapshot
  refine ⟨fun s t rest hs hcfg hbetween hin => ?good, fun t rest n hbetween hin hbad => ?bad⟩
  case good =>
    have hok : snapshotOk (t.took rest).cfg (takeSnapshot s) = true := by
      rw [took_cfg, hcfg]
      exact snapshotOk_takeSnapshot hs
    have hstep := step_restore hbetween hin
    rw [restoreSnapshot_good hok] at hstep
    exact ⟨_, hstep, ⟨hcfg.symm, rfl, rfl, rfl, rfl, rfl⟩, rfl, ⟨rfl, rfl⟩, rfl⟩
  case bad =>
    have hstep := step_restore hbetween hin
    rw [restoreSnapshot_bad (s := t.took rest) (snapshotOk_eq_false hbad)] at hstep
    exact hstep

end Sys2Proof.Machine
end

section
/-! The walk as a function of what it reads (40_translation.md R93) and as a function that privilege only widens (R86, R87). -/

namespace Sys2Proof.Machine

/-- The two descriptors, the enable, the base and the rights decide a walk. -/
theorem walk_of_inputs {s t : State} {va : Word} (w p : Bool) (henabled : s.tc.enabled = t.tc.enabled)
    (hbase : s.tc.tableBase0 = t.tc.tableBase0) (hrights : s.tc.domainRights = t.tc.domainRights)
    (h1 : descRead s (l1Addr s.tc.tableBase0 va) = descRead t (l1Addr s.tc.tableBase0 va))
    (h2 : ∀ d1, descRead s (l1Addr s.tc.tableBase0 va) = .ok d1 → d1.extractLsb' 0 2 = 1 →
      descRead s (l2Addr d1 va) = descRead t (l2Addr d1 va)) :
    walk s va w p = walk t va w p := by
  have hright : ∀ dom, domainRight s.tc dom = domainRight t.tc dom := fun dom => by rw [domainRight, hrights, domainRight]
  cases hon : t.tc.enabled with
  | false => rw [walk_off hon, walk_off (henabled.trans hon)]
  | true =>
    rw [walk_on hon, walk_on (henabled.trans hon), walkTable, walkTable, ← hbase, ← h1]
    cases hd : descRead s (l1Addr s.tc.tableBase0 va) with
    | error r => rfl
    | ok d1 =>
      have hpage : d1.extractLsb' 0 2 = 1 → walkPage s d1 va w p = walkPage t d1 va w p := fun hformat => by
        simp only [walkPage, h2 d1 hd hformat, hright]
      by_cases hformat : d1.extractLsb' 0 2 = 1
      · simp only [hpage hformat, hright]
      · have hn : (descFormat d1).toNat ≠ 1 := fun hn => hformat (BitVec.eq_of_toNat_eq hn)
        dsimp only
        split
        · rfl
        · contradiction
        · simp only [hright]
        · rfl

theorem recorded_recorded (s : State) (va : Word) (code : BitVec 5) (w : Bool) (q : Response) :
    recorded ((recorded s va code w).respond q) va code w = (recorded s va code w).respond q := rfl

/-- Settles O20: a walk reads what `walk_of_inputs` names, an XLAT changes none of it, and recording a fault twice is recording
it once. -/
theorem translationIsPure : Obligations.TranslationIsPure := by
  unfold Obligations.TranslationIsPure
  refine ⟨fun s t va w p => walk_of_inputs w p, fun s t va w p h hlive => ?again⟩
  case again =>
    by_cases hl : s.live
    · have hlt : t.live := hlive
      rw [exec_xlat hl] at h
      rw [exec_xlat hlt]
      obtain ⟨pa, hwalk, hend⟩ | ⟨st, hwalk, hend⟩ | ⟨r, i, -, hend⟩ := translate_cases va w p false s <;> rw [hend] at h <;>
        cases h
      · have hagain : walk (s.respond (.ok pa)) va w p = .done pa := (walk_congr (t := s) rfl rfl rfl va w p).trans hwalk
        rw [conclude_ok, translate_done hagain, conclude_ok, respond_respond]
      · have hagain : walk ((recorded s va (faultCode st) w).respond (.abort ⟨st, w, false⟩)) va w p = .fault st :=
          (walk_congr (t := s) rfl rfl rfl va w p).trans hwalk
        rw [conclude_abort, translate_fault hagain, conclude_abort, recorded_recorded, respond_respond]
      · simp at hlive
    · rw [exec_halted hl] at h
      cases h
      exact absurd hlive hl

/-! ### Privilege -/

/-- In every row of the table the privileged column allows what the unprivileged one does (40_translation.md R87). -/
theorem permitted_privileged {ap2 : Bool} {ap10 : BitVec 2} {w : Bool} (h : permitted ap2 ap10 w false = true) :
    permitted ap2 ap10 w true = true := by
  have htable : ∀ (ap2 : Bool) (ap10 : Fin 4) (w : Bool),
      permitted ap2 (BitVec.ofFin ap10) w false = true → permitted ap2 (BitVec.ofFin ap10) w true = true := by decide
  exact htable ap2 ap10.toFin w h

theorem mapped_privileged {right : DomainRight} {ap2 : Bool} {ap10 : BitVec 2} {l : Level} {w : Bool} {va pa pa' : Word}
    (h : mapped right ap2 ap10 l w false va pa' = .done pa) : mapped right ap2 ap10 l w true va pa' = .done pa := by
  cases right with
  | noAccess => cases h
  | reserved => cases h
  | manager => exact h
  | client =>
    by_cases hap : ap2 = true ∧ ap10 = 0
    · rw [mapped_client_reservedAP hap] at h
      cases h
    · cases hper : permitted ap2 ap10 w false with
      | false =>
        rw [mapped_client_forbidden hap hper] at h
        cases h
      | true => rwa [mapped_client_permitted hap (permitted_privileged hper), ← mapped_client_permitted hap hper l va pa']

theorem walkPage_privileged {s : State} {d1 va pa : Word} {w : Bool} (h : walkPage s d1 va w false = .done pa) :
    walkPage s d1 va w true = .done pa := by
  unfold walkPage at h ⊢
  cases hd : descRead s (l2Addr d1 va) with
  | error r => simp [hd] at h
  | ok d2 =>
    simp only [hd] at h ⊢
    split at h
    · cases h
    · cases h
    · exact mapped_privileged h

theorem walkTable_privileged {s : State} {va pa : Word} {w : Bool} (h : walkTable s va w false = .done pa) :
    walkTable s va w true = .done pa := by
  unfold walkTable at h ⊢
  cases hd : descRead s (l1Addr s.tc.tableBase0 va) with
  | error r => simp [hd] at h
  | ok d1 =>
    simp only [hd] at h ⊢
    split at h
    · cases h
    · exact walkPage_privileged h
    · split at h
      · cases h
      · rename_i hsuper
        rw [if_neg hsuper]
        exact mapped_privileged h
    · cases h

/-- Settles O21: only the check at a mapping reads the privilege. -/
theorem privilegeOnlyAddsRights : Obligations.PrivilegeOnlyAddsRights := by
  unfold Obligations.PrivilegeOnlyAddsRights
  intro s va pa w h
  cases hon : s.tc.enabled with
  | false => rwa [walk_off hon] at h ⊢
  | true =>
    rw [walk_on hon] at h ⊢
    exact walkTable_privileged h

end Sys2Proof.Machine
end

section
/-! The Bus (43_bus.md R117 to R124): loads, fetches and stores by where the walk and the route end, and their frames. -/

namespace Sys2Proof.Machine

/-! ### A command by the end of its access -/

section
variable {s : State} (hl : s.live) {a pa : Word} {p : Bool}
include hl

theorem exec_load_done (hwalk : walk s a false p = .done pa) (w : Width) :
    exec (loadForm w p a) s = .next (conclude (accessAt a w .load pa s)) := by
  rw [exec_load hl, access_done .load hwalk]

theorem exec_fetch_done (hwalk : walk s a false p = .done pa) :
    exec (.fetch p a) s = .next (conclude (accessAt a .word .fetch pa s)) := by
  rw [exec_fetch hl, access_done .fetch hwalk]

theorem exec_store_done (hwalk : walk s a true p = .done pa) (w : Width) (d : Word) :
    exec (storeForm w p a d) s = .next (conclude (accessAt a w (.store d) pa s)) := by
  rw [exec_store hl, access_done (.store d) hwalk]

end

/-! ### RAM -/

/-- Settles O22: the value is `memRead`, whose number is the sum of the bytes. -/
theorem loadsAndFetchesOfRamComplete : Obligations.LoadsAndFetchesOfRamComplete := by
  unfold Obligations.LoadsAndFetchesOfRamComplete
  intro s a pa p w hl hwalk hram haligned
  refine ⟨memRead s pa w, memRead_toNat s pa w, ?load, ?fetch⟩
  case load => rw [exec_load_done hl hwalk, accessAt_ram_read hram haligned rfl, conclude_ok]
  case fetch =>
    rintro rfl
    rw [exec_fetch_done hl hwalk, accessAt_ram_read hram haligned rfl, conclude_ok]

theorem exec_store_ram {s : State} (hl : s.live) {a pa : Word} {p : Bool} {w : Width} (hwalk : walk s a true p = .done pa)
    (hram : route s.cfg pa = .ram) (haligned : pa.toNat % widthBytes w = 0) (d : Word) :
    exec (storeForm w p a d) s = .next ((memWrite s pa w d).respond (.ok 0)) := by
  rw [exec_store_done hl hwalk, accessAt_ram_store hram haligned, conclude_ok]

/-- Settles O23: the state is `memWrite`'s, whose bytes are the laws of memory. -/
theorem storesToRamComplete : Obligations.StoresToRamComplete := by
  unfold Obligations.StoresToRamComplete
  intro s a d pa p w hl hwf hwalk hram haligned
  have hframe := memWrite_frame s pa w d
  exact ⟨_, exec_store_ram hl hwalk hram haligned d, rfl, fun i hi => readByte_memWrite_same hwf pa w d hi,
    fun b hb => readByte_memWrite_other s pa w d hb, hframe.cfg, hframe.tc, memWrite_cp .., hframe.ic, hframe.fatal,
    ⟨(memWrite_periphLog ..).symm, (memWrite_draws ..).symm⟩, hframe.client⟩

/-! ### Reads of a stored word -/

theorem byteOf_toNat (v : Word) (i : Nat) : (byteOf v i).toNat = v.toNat / 256 ^ i % 256 := by
  have hpow : (2 : Nat) ^ (8 * i) = 256 ^ i := pow_mul 2 8 i
  rw [byteOf, BitVec.extractLsb'_toNat, Nat.shiftRight_eq_div_pow, hpow]

/-- The base-256 digits of a width's bytes. -/
theorem sum_digits (x : Nat) (w : Width) :
    ∑ i ∈ Finset.range (widthBytes w), x / 256 ^ i % 256 * 256 ^ i = x % 256 ^ widthBytes w := by
  cases w <;> simp only [widthBytes, Finset.sum_range_succ, Finset.sum_range_zero] <;> omega

/-- What a read of some bytes of a stored word gives (20_memory.md R40). -/
theorem memRead_memWrite_part {s : State} (hwf : Memory.wf s.cfg s.ram = true) {pa : Word} (haligned : pa.toNat % 4 = 0)
    (v : Word) {off : Word} {w : Width} (hoff : off.toNat + widthBytes w ≤ 4) :
    (memRead (memWrite s pa .word v) (pa + off) w).toNat = v.toNat / 256 ^ off.toNat % 256 ^ widthBytes w := by
  have hw : 0 < widthBytes w := by cases w <;> decide
  have hsum : (pa + off).toNat = pa.toNat + off.toNat := by
    have hpa := pa.isLt
    rw [BitVec.toNat_add]
    omega
  rw [memRead_toNat, hsum, ← sum_digits]
  refine Finset.sum_congr rfl fun i hi => ?_
  have hinside : off.toNat + i < 4 := by
    have := Finset.mem_range.mp hi
    omega
  rw [Nat.add_assoc, readByte_memWrite_same hwf pa .word v hinside, byteOf_toNat, Nat.div_div_eq_div_mul, pow_add]

/-- Settles O24: a read of part of a stored word is the sum of its bytes there, and a store leaves translation off. -/
theorem readsSeeTheStoredWord : Obligations.ReadsSeeTheStoredWord := by
  unfold Obligations.ReadsSeeTheStoredWord
  refine ⟨fun s pa v hwf haligned => ⟨memRead_memWrite_same hwf pa v, ?low, ?high, ?top⟩,
    fun s a d p q hl hoff hwf hram haligned => ?next⟩
  case low =>
    have h := memRead_memWrite_part hwf haligned v (off := 0) (w := .half) (by decide)
    rw [add_zero] at h
    refine BitVec.eq_of_toNat_eq (h.trans ?_)
    rw [BitVec.toNat_and, show (0xFFFF : Word).toNat = 2 ^ 16 - 1 from rfl, Nat.and_two_pow_sub_one_eq_mod]
    exact congrArg (· % 2 ^ 16) (Nat.div_one _)
  case high =>
    refine BitVec.eq_of_toNat_eq ((memRead_memWrite_part hwf haligned v (by decide)).trans ?_)
    rw [BitVec.toNat_ushiftRight, Nat.shiftRight_eq_div_pow]
    exact Nat.mod_eq_of_lt (Nat.div_lt_of_lt_mul v.isLt)
  case top =>
    refine BitVec.eq_of_toNat_eq ((memRead_memWrite_part hwf haligned v (by decide)).trans ?_)
    rw [BitVec.toNat_ushiftRight, Nat.shiftRight_eq_div_pow]
    exact Nat.mod_eq_of_lt (Nat.div_lt_of_lt_mul v.isLt)
  case next =>
    have hstore := exec_store_ram hl (p := p) (w := .word) (walk_off hoff a true p) hram haligned d
    have hframe := memWrite_frame s a .word d
    have hlive : ((memWrite s a .word d).respond (.ok 0)).live := hframe.fatal.trans hl
    have hwalk : walk ((memWrite s a .word d).respond (.ok 0)) a false q = .done a :=
      walk_off (by rw [respond_tc, hframe.tc, hoff]) a false q
    have hram' : route ((memWrite s a .word d).respond (.ok 0)).cfg a = .ram := by rw [respond_cfg, hframe.cfg, hram]
    have hread : memRead ((memWrite s a .word d).respond (.ok 0)) a .word = d := memRead_memWrite_same hwf a d
    refine ⟨_, hstore, ?_, ?_⟩
    · have hload := exec_load_done hlive hwalk .word
      rwa [accessAt_ram_read (w := .word) hram' haligned rfl, hread, conclude_ok] at hload
    · rw [exec_fetch_done hlive hwalk, accessAt_ram_read (w := .word) hram' haligned rfl, hread, conclude_ok]

/-! ### Peripherals -/

theorem truncate_toNat (w : Width) (v : Word) : (truncate w v).toNat = v.toNat % 256 ^ widthBytes w := by
  have hv := v.isLt
  cases w with
  | byte => simp [truncate, widthBytes]; omega
  | half => simp [truncate, widthBytes]; omega
  | word => simp only [truncate, widthBytes]; omega

/-- Settles O25: the access is delivered, and a value of the access's width is a remainder. -/
theorem peripheralAccessesComplete : Obligations.PeripheralAccessesComplete := by
  unfold Obligations.PeripheralAccessesComplete
  intro s a d pa off p w id hl hroute
  refine ⟨fun hwalk => ⟨_, ?bound, truncate_toNat w _, ?load, ?fetch⟩, fun hwalk => ⟨_, truncate_toNat w d, ?store⟩⟩
  case bound =>
    rw [truncate_toNat]
    exact Nat.mod_lt _ (by positivity)
  case load =>
    rw [exec_load_done hl hwalk, accessAt_periph_read hroute rfl]
    rfl
  case fetch =>
    rintro rfl
    have hload := exec_load_done hl hwalk .word
    rw [accessAt_periph_read hroute rfl] at hload
    rw [exec_fetch_done hl hwalk, accessAt_periph_read hroute rfl]
    exact hload.symm
  case store =>
    rw [exec_store_done hl hwalk, accessAt_periph_store hroute]
    rfl

/-! ### Aborts and Fatals of an access -/

/-- Settles O26: at each kind of access the alignment check ends it, and `takeAlignment_eq` says what is recorded. -/
theorem misalignedRamAccessAborts : Obligations.MisalignedRamAccessAborts := by
  unfold Obligations.MisalignedRamAccessAborts
  intro s a d pa p w hl hram hmis after
  refine ⟨fun hwalk => ⟨?load, ?fetch⟩, fun hwalk => ?store⟩
  case load => rw [exec_load_done hl hwalk, accessAt_misaligned hram hmis, takeAlignment_eq]; rfl
  case fetch =>
    rintro rfl
    rw [exec_fetch_done hl hwalk, accessAt_misaligned hram hmis, takeAlignment_eq]
    rfl
  case store => rw [exec_store_done hl hwalk, accessAt_misaligned hram hmis, takeAlignment_eq]; rfl

/-- Settles O27: an access ends as its walk does, and one that is done ends where no region covers its address. -/
theorem walkAndRoutingComeBeforeAlignment : Obligations.WalkAndRoutingComeBeforeAlignment := by
  unfold Obligations.WalkAndRoutingComeBeforeAlignment
  intro s a d p w hl
  have hfatal : ∀ r i, conclude (.fatal r i s) = { s with fatal := some ⟨r, i⟩, response := some (.fatal r) } := fun r i => by
    rw [conclude_fatal, setFatal_none hl]
    rfl
  refine ⟨fun pa hnone => ?unmapped, fun st => ?fault, fun r i => ?fatal⟩
  case unmapped =>
    refine ⟨fun hwalk => ⟨?_, ?_⟩, fun hwalk => ?_⟩
    · rw [exec_load_done hl hwalk, accessAt_none hnone, hfatal]
    · rw [exec_fetch_done hl hwalk, accessAt_none hnone, hfatal]
    · rw [exec_store_done hl hwalk, accessAt_none hnone, hfatal]
  case fault =>
    refine ⟨fun hwalk => ⟨?_, ?_⟩, fun hwalk => ?_⟩
    · rw [exec_load hl, access_fault .load hwalk]; rfl
    · rw [exec_fetch hl, access_fault .fetch hwalk]; rfl
    · rw [exec_store hl, access_fault (.store d) hwalk]; rfl
  case fatal =>
    refine ⟨fun hwalk => ⟨?_, ?_⟩, fun hwalk => ?_⟩
    · rw [exec_load hl, access_fatal .load hwalk, hfatal]
    · rw [exec_fetch hl, access_fatal .fetch hwalk, hfatal]
    · rw [exec_store hl, access_fatal (.store d) hwalk, hfatal]

/-! ### Frames -/

@[simp] theorem conclude_periphLog (r : Ended Word) : (conclude r).periphLog = r.state.periphLog := by
  cases r <;> simp [Ended.state]

@[simp] theorem conclude_draws (r : Ended Word) : (conclude r).draws = r.state.draws := by
  cases r <;> simp [Ended.state]

@[simp] theorem conclude_readByte (r : Ended Word) (a : Nat) : (conclude r).readByte a = r.state.readByte a := by
  cases r <;> simp [Ended.state]

/-- What XLAT, loads, fetches and single stores leave alone but for RAM and the peripherals: the fault registers change on an
ABORT only, `S.fatal` on a FATAL only (40_translation.md R91, 60_exceptions.md R126). -/
structure AccessFrame (s t : State) : Prop where
  cfg : t.cfg = s.cfg
  tc : t.tc = s.tc
  ic : t.ic = s.ic
  client : SameClient s t
  cp : SameButFaultRegisters s.cp t.cp
  noAbort : (∀ f, t.response ≠ some (.abort f)) → t.cp = s.cp
  noFatal : (∀ r, t.response ≠ some (.fatal r)) → t.fatal = s.fatal

theorem bodyOf_busFrame {i : Instr} (h : usesBus i = true) (s : State) : BusFrame s (bodyOf i s).state := by
  cases i
  case xlatUR | xlatUW | xlatPR | xlatPW => exact translate_frame _ _ _ _ s
  case ldb | ldh | ldw | fetch | stb | sth | stw => exact access_frame _ _ _ _ s
  case storeu a d => exact storeUnaligned_frame a d s
  all_goals cases h

theorem translate_ok_cp {va v : Word} {w p f : Bool} {s t : State} (h : translate va w p f s = .ok v t) : t.cp = s.cp := by
  obtain ⟨pa, -, hend⟩ | ⟨st, -, hend⟩ | ⟨r, i, -, hend⟩ := translate_cases va w p f s <;> cases hend.symm.trans h
  rfl

theorem access_ok_cp {va v : Word} {w : Width} {p : Bool} {k : AccessKind} {s t : State}
    (h : access va w p k s = .ok v t) : t.cp = s.cp := by
  obtain ⟨v', u, hend, hcp⟩ | ⟨st, u, hend, -⟩ | ⟨r, i, hend⟩ := access_ends va w p k s <;> cases hend.symm.trans h
  exact hcp

theorem bodyOf_bus_ok_cp {i : Instr} (hbus : usesBus i = true) (hi : ∀ a d, i ≠ .storeu a d) {s u : State} {v : Word}
    (h : bodyOf i s = .ok v u) : u.cp = s.cp := by
  cases i
  case xlatUR | xlatUW | xlatPR | xlatPW => exact translate_ok_cp h
  case ldb | ldh | ldw | fetch | stb | sth | stw => exact access_ok_cp h
  case storeu a d => exact absurd rfl (hi a d)
  all_goals cases hbus

theorem exec_accessFrame {i : Instr} (hbus : usesBus i = true) (hi : ∀ a d, i ≠ .storeu a d) {s t : State}
    (h : exec i s = .next t) : AccessFrame s t := by
  obtain ⟨hcfg, hclient⟩ := exec_client h
  have hframe := bodyOf_busFrame hbus s
  obtain ⟨-, rfl⟩ | ⟨-, ⟨v, u, hb, rfl⟩ | ⟨f, u, hb, rfl⟩ | ⟨r, info, u, hb, rfl⟩⟩ := exec_cases h
  · exact ⟨rfl, rfl, rfl, hclient, rfl, fun _ => rfl, fun _ => rfl⟩
  · rw [hb] at hframe
    have hcp : u.cp = s.cp := bodyOf_bus_ok_cp hbus hi hb
    exact ⟨hcfg, hframe.tc, hframe.ic, hclient, hframe.cp, fun _ => hcp, fun _ => hframe.fatal⟩
  · rw [hb] at hframe
    exact ⟨hcfg, hframe.tc, hframe.ic, hclient, hframe.cp, fun hno => absurd rfl (hno f), fun _ => hframe.fatal⟩
  · obtain ⟨htc, hcp, hic, -⟩ := bodyOf_fatal hb
    refine ⟨hcfg, by simpa using htc, by simpa using hic, hclient, ?_, fun _ => by simpa using hcp,
      fun hno => absurd rfl (hno r)⟩
    rw [respond_cp, setFatal_cp, hcp]
    rfl

theorem bodyOf_xlatForm (p w : Bool) (a : Word) : bodyOf (xlatForm p w a) = translate a w p false := by
  cases p <;> cases w <;> rfl

theorem bodyOf_loadForm (w : Width) (p : Bool) (a : Word) : bodyOf (loadForm w p a) = access a w p .load := by
  cases w <;> rfl

/-- A property of a body's state that neither the response nor the Fatal record touches is one of the command's state. -/
theorem exec_of_bodyOf {P : State → Prop} {i : Instr} {s t : State} (h : exec i s = .next t) (hs : ∀ q, P (s.respond q))
    (hbody : P (conclude (bodyOf i s))) : P t := by
  by_cases hl : s.fatal = none
  · rw [exec_live hl] at h
    cases h
    exact hbody
  · rw [exec_halted hl] at h
    cases h
    exact hs _

theorem exec_peripherals {i : Instr} {s t : State} (h : exec i s = .next t) (hbody : SamePeripherals s (bodyOf i s).state) :
    SamePeripherals s t :=
  exec_of_bodyOf (P := SamePeripherals s) h (fun _ => ⟨rfl, rfl⟩)
    ⟨by simpa using hbody.1, by simpa using hbody.2⟩

theorem translate_peripherals (va : Word) (w p f : Bool) (s : State) : SamePeripherals s (translate va w p f s).state := by
  obtain ⟨pa, -, h⟩ | ⟨st, -, h⟩ | ⟨r, i, -, h⟩ := translate_cases va w p f s <;> rw [h] <;> exact ⟨rfl, rfl⟩

/-- Only an access that the walk takes to a peripheral is delivered to one (43_bus.md R120). -/
theorem access_read_peripherals {k : AccessKind} (hk : k.reads = true) {va : Word} {p : Bool} {s : State}
    (hno : ∀ pa id off, walk s va k.isWrite p = .done pa → route s.cfg pa ≠ .periph id off) (w : Width) :
    SamePeripherals s (access va w p k s).state := by
  obtain ⟨pa, id, off, hwalk, hroute, -⟩ | ⟨pa, -, -, -, ⟨-, h⟩ | ⟨v, rfl, -⟩⟩ | ⟨st, t, h, ht⟩ | ⟨r, i, h⟩ :=
    access_cases va w p k s
  · exact absurd hroute (hno pa id off hwalk)
  · rw [h]; exact ⟨rfl, rfl⟩
  · cases hk
  · rw [h]; exact ht.peripherals
  · rw [h]; exact ⟨rfl, rfl⟩

/-- Settles O30: the frame of every such access, and RAM and the peripherals by the kind of the command. -/
theorem translatingAndLoadingCommandsFrame : Obligations.TranslatingAndLoadingCommandsFrame := by
  unfold Obligations.TranslatingAndLoadingCommandsFrame
  intro s t i a p w wd hi h
  have hbus : usesBus i = true := by
    obtain rfl | rfl | rfl := hi
    · cases p <;> cases w <;> rfl
    · cases wd <;> rfl
    · rfl
  have hstore : isStore i = false := by
    obtain rfl | rfl | rfl := hi
    · cases p <;> cases w <;> rfl
    · cases wd <;> rfl
    · rfl
  have hram := exec_ram hstore h
  have hframe := exec_accessFrame hbus (fun a d hid => by rw [hid] at hstore; cases hstore) h
  refine ⟨hframe.cfg, hframe.tc, hframe.ic, hframe.client, sameBytes_of_ram hframe.cfg hram, hram, hframe.cp,
    hframe.noAbort, hframe.noFatal, fun hxlat => ?xlat, fun hno => ?peripherals⟩
  case xlat =>
    refine exec_peripherals h ?_
    rw [hxlat, bodyOf_xlatForm]
    exact translate_peripherals a w p false s
  case peripherals =>
    refine exec_peripherals h ?_
    obtain rfl | rfl | rfl := hi
    · rw [bodyOf_xlatForm]
      exact translate_peripherals a w p false s
    · rw [bodyOf_loadForm]
      exact access_read_peripherals rfl hno wd
    · exact access_read_peripherals (k := .fetch) rfl hno .word

/-- Where a store goes: to RAM, to a peripheral, or nowhere (43_bus.md R122). -/
theorem exec_store_cases {s t : State} {a d : Word} {p : Bool} {w : Width} (h : exec (storeForm w p a d) s = .next t) :
    (∃ pa, walk s a true p = .done pa ∧ route s.cfg pa = .ram ∧ pa.toNat % widthBytes w = 0
        ∧ t = (memWrite s pa w d).respond (.ok 0))
      ∨ (∃ pa id off v, walk s a true p = .done pa ∧ route s.cfg pa = .periph id off
        ∧ t = (s.logPeriph (.write id off w v)).respond (.ok 0))
      ∨ (SameBytes s t ∧ SamePeripherals s t) := by
  by_cases hl : s.live
  · rw [exec_store hl] at h
    obtain ⟨pa, id, off, hwalk, hroute, ⟨hread, -⟩ | ⟨v, hv, hend⟩⟩ | ⟨pa, hwalk, hroute, haligned, ⟨hread, -⟩ | ⟨v, hv, hend⟩⟩
      | ⟨st, u, hend, hu⟩ | ⟨r, i, hend⟩ := access_cases a w p (.store d) s
    · cases hread
    · cases hv
      rw [hend] at h
      cases h
      exact .inr (.inl ⟨pa, id, off, _, hwalk, hroute, rfl⟩)
    · cases hread
    · cases hv
      rw [hend] at h
      cases h
      exact .inl ⟨pa, hwalk, hroute, haligned, rfl⟩
    · rw [hend] at h
      cases h
      exact .inr (.inr ⟨sameBytes_of_ram hu.frame.cfg hu.ram, hu.peripherals⟩)
    · rw [hend] at h
      cases h
      exact .inr (.inr ⟨fun b => by simp, setFatal_respond_peripherals s r i _⟩)
  · rw [exec_halted hl] at h
    cases h
    exact .inr (.inr ⟨fun _ => rfl, rfl, rfl⟩)

/-- Settles O31: the frame of every such access, and the bytes and the peripherals by where the store goes. -/
theorem storingCommandsFrame : Obligations.StoringCommandsFrame := by
  unfold Obligations.StoringCommandsFrame
  intro s t a d p w h
  have hframe : AccessFrame s t := by
    refine exec_accessFrame ?_ ?_ h <;> cases w <;> simp [storeForm, usesBus]
  refine ⟨?outside, ?nowhere, ?notOk, hframe.cfg, hframe.tc, hframe.ic, hframe.client, ?draws, hframe.cp, hframe.noAbort,
    hframe.noFatal, ?peripherals⟩ <;>
    obtain ⟨pa, hwalk, hroute, haligned, rfl⟩ | ⟨pa, id, off, v, hwalk, hroute, rfl⟩ | ⟨hbytes, hperiph⟩ := exec_store_cases h
  case outside.inl =>
    intro pa' hwalk' b hb
    obtain rfl : pa = pa' := Walk.done.inj (hwalk.symm.trans hwalk')
    exact readByte_memWrite_other s pa w d hb
  case outside.inr.inl => exact fun _ _ _ _ => rfl
  case outside.inr.inr => exact fun _ _ b _ => (hbytes b).symm
  case nowhere.inl => exact fun hno => absurd haligned (hno pa hwalk hroute)
  case nowhere.inr.inl => exact fun _ _ => rfl
  case nowhere.inr.inr => exact fun _ => hbytes
  case notOk.inl => exact fun hno => absurd rfl hno
  case notOk.inr.inl => exact fun _ _ => rfl
  case notOk.inr.inr => exact fun _ => hbytes
  case draws.inl => simp
  case draws.inr.inl => rfl
  case draws.inr.inr => exact hperiph.2.symm
  case peripherals.inl => simp
  case peripherals.inr.inl => exact fun hno => absurd hroute (hno pa id off hwalk)
  case peripherals.inr.inr => exact fun _ => hperiph.1.symm

end Sys2Proof.Machine
end

section
/-! STOREU to RAM (43_bus.md R124): with translation off its pieces are one run of bytes at rising addresses, which wrap
modulo 2^32, and such a run writes each of its bytes and no other. -/

namespace Sys2Proof.Machine

/-! ### A run of bytes -/

theorem add_one_add_ofNat (a : Word) (i : Nat) : a + 1 + BitVec.ofNat 32 i = a + BitVec.ofNat 32 (i + 1) := by
  rw [add_assoc, BitVec.ofNat_add, add_comm (BitVec.ofNat 32 i)]
  rfl

theorem readByte_writeBytes_other {addr : Word} {bytes : List Byte} {b : Nat}
    (h : ∀ i < bytes.length, b ≠ (addr + BitVec.ofNat 32 i).toNat) (s : State) :
    (writeBytes addr bytes s).readByte b = s.readByte b := by
  induction bytes generalizing addr s with
  | nil => rfl
  | cons x xs ih =>
    have htail : ∀ i < xs.length, b ≠ (addr + 1 + BitVec.ofNat 32 i).toNat := fun i hi => by
      rw [add_one_add_ofNat]
      exact h (i + 1) (Nat.succ_lt_succ hi)
    have hhead : b ≠ addr.toNat := by
      have h0 := h 0 (Nat.succ_pos _)
      rwa [BitVec.add_zero] at h0
    rw [writeBytes, ih htail, readByte_writeByte_other s hhead]

/-- A byte of a run that is not longer than the address space is not written again. -/
theorem readByte_writeBytes_same {addr : Word} {bytes : List Byte} {s : State} (hwf : Memory.wf s.cfg s.ram = true)
    (hlen : bytes.length ≤ 2 ^ 32) {i : Nat} (hi : i < bytes.length) :
    (writeBytes addr bytes s).readByte (addr + BitVec.ofNat 32 i).toNat = bytes[i] := by
  induction bytes generalizing addr s i with
  | nil => cases hi
  | cons x xs ih =>
    have hlenTail : xs.length < 2 ^ 32 := hlen
    rw [writeBytes]
    cases i with
    | zero =>
      have hdistinct : ∀ j < xs.length, addr.toNat ≠ (addr + 1 + BitVec.ofNat 32 j).toNat := fun j hj => by
        have haddr := addr.isLt
        rw [add_one_add_ofNat, BitVec.toNat_add, BitVec.toNat_ofNat]
        omega
      rw [BitVec.add_zero, readByte_writeBytes_other hdistinct]
      exact readByte_writeByte_same hwf _ x
    | succ j =>
      rw [← add_one_add_ofNat]
      exact ih (s := s.writeByte addr.toNat x) (writeByte_wf hwf _ x) hlenTail.le (Nat.lt_of_succ_lt_succ hi)

/-! ### The pieces as a run of bytes -/

/-- The bytes of a word, low first. -/
def wordBytes (d : Word) : List Byte := [byteOf d 0, byteOf d 1, byteOf d 2, byteOf d 3]

theorem wordBytes_getElem (d : Word) {i : Nat} (hi : i < (wordBytes d).length) : (wordBytes d)[i] = byteOf d i := by
  have hi' : i < 4 := hi
  interval_cases i <;> rfl

theorem byteOf_ushiftRight (d : Word) (k i : Nat) : byteOf (d >>> (8 * k)) i = byteOf d (k + i) := by
  refine BitVec.eq_of_getLsbD_eq fun j hj => ?_
  simp only [byteOf, BitVec.getLsbD_extractLsb', BitVec.getLsbD_ushiftRight]
  rw [Nat.mul_add, Nat.add_assoc]

theorem memWrite_half_even {pa : Word} (heven : pa.toNat % 2 = 0) (v : Word) (s : State) :
    memWrite s pa .half v = writeBytes pa [byteOf v 0, byteOf v 1] s := by
  have hnext : (pa + 1).toNat = pa.toNat + 1 := by
    have hpa := pa.isLt
    rw [BitVec.toNat_add, show (1 : Word).toNat = 1 from rfl]
    omega
  rw [writeBytes, writeBytes, writeBytes, hnext]
  rfl

/-- With translation off, stores of pieces to aligned addresses of RAM complete one after the other. -/
theorem storePieces_ram {a : Word} {w : Width} {pieces : List (Word × Word)} {s : State} (hoff : s.tc.enabled = false)
    (hram : ∀ c ∈ pieces, route s.cfg (a + c.1) = .ram ∧ (a + c.1).toNat % widthBytes w = 0) :
    storePieces a w pieces s = .ok 0 (pieces.foldl (fun t c => memWrite t (a + c.1) w c.2) s) := by
  induction pieces generalizing s with
  | nil => rfl
  | cons c rest ih =>
    obtain ⟨hroute, haligned⟩ := hram c (List.mem_cons_self ..)
    rw [storePieces, access_done (.store c.2) (walk_off hoff _ _ _), accessAt_ram_store hroute haligned, andThen_ok]
    refine ih (s := memWrite s (a + c.1) w c.2) (by rw [memWrite_tc, hoff]) fun c' hc' => ?_
    rw [memWrite_cfg]
    exact hram c' (List.mem_cons_of_mem c hc')

theorem writeBytes_append (addr : Word) (xs ys : List Byte) (s : State) :
    writeBytes addr (xs ++ ys) s = writeBytes (addr + BitVec.ofNat 32 xs.length) ys (writeBytes addr xs s) := by
  induction xs generalizing addr s with
  | nil => rw [List.nil_append, List.length_nil, BitVec.add_zero, writeBytes]
  | cons x xs ih => rw [List.cons_append, writeBytes, ih, add_one_add_ofNat, List.length_cons, writeBytes]

theorem toNat_mod_two_of_getLsbD {a : Word} (h : a.getLsbD 0 = false) : a.toNat % 2 = 0 := by
  rw [BitVec.getLsbD, Nat.testBit_zero, decide_eq_false_iff_not] at h
  omega

/-- At an even address the two halfwords, at an odd one the four bytes, are the bytes of the word at rising addresses. -/
theorem storeUnaligned_ram {a : Word} {s : State} (hoff : s.tc.enabled = false)
    (hram : ∀ i : Nat, i < 4 → route s.cfg (a + BitVec.ofNat 32 i) = .ram) (d : Word) :
    storeUnaligned a d s = .ok 0 (writeBytes a (wordBytes d) s) := by
  have hb2 : byteOf (d >>> 16) 0 = byteOf d 2 := byteOf_ushiftRight d 2 0
  cases hodd : a.getLsbD 0 with
  | false =>
    have heven : a.toNat % 2 = 0 := toNat_mod_two_of_getLsbD hodd
    have heven2 : (a + 2).toNat % 2 = 0 := by
      rw [BitVec.toNat_add, show (2 : Word).toNat = 2 from rfl]
      omega
    have hb3 : byteOf (d >>> 16) 1 = byteOf d 3 := byteOf_ushiftRight d 2 1
    rw [storeUnaligned_even hodd, storePieces_ram hoff]
    · simp only [shiftedHalves, List.foldl_cons, List.foldl_nil, add_zero, memWrite_half_even heven,
        memWrite_half_even heven2, hb2, hb3]
      exact congrArg (Ended.ok 0) (writeBytes_append a [byteOf d 0, byteOf d 1] [byteOf d 2, byteOf d 3] s).symm
    · simp only [shiftedHalves, List.forall_mem_cons, add_zero]
      exact ⟨⟨by simpa using hram 0 (by decide), heven⟩, ⟨hram 2 (by decide), heven2⟩, by simp⟩
  | true =>
    have hb1 : byteOf (d >>> 8) 0 = byteOf d 1 := byteOf_ushiftRight d 1 0
    have hb3 : byteOf (d >>> 24) 0 = byteOf d 3 := byteOf_ushiftRight d 3 0
    rw [storeUnaligned_odd hodd, storePieces_ram hoff]
    · simp only [shiftedBytes, List.foldl_cons, List.foldl_nil, add_zero, memWrite, hb1, hb2, hb3]
      simp only [wordBytes, writeBytes, add_assoc]
      rfl
    · simp only [shiftedBytes, List.forall_mem_cons, add_zero, widthBytes, Nat.mod_one]
      exact ⟨⟨by simpa using hram 0 (by decide), trivial⟩, ⟨hram 1 (by decide), trivial⟩, ⟨hram 2 (by decide), trivial⟩,
        ⟨hram 3 (by decide), trivial⟩, by simp⟩

/-- Settles O29: the four bytes are written as one run, whose bytes are four different addresses. -/
theorem storeuToRamCompletes : Obligations.StoreuToRamCompletes := by
  unfold Obligations.StoreuToRamCompletes
  intro s a d hl hoff hwf hram
  have hexec := exec_of_body_ok hl (.storeu a d) (storeUnaligned_ram hoff hram d)
  have hsame : ∀ i (hi : i < 4), (writeBytes a (wordBytes d) s).readByte (a + BitVec.ofNat 32 i).toNat = byteOf d i :=
    fun i hi => (readByte_writeBytes_same (bytes := wordBytes d) hwf (by simp [wordBytes]) hi).trans (wordBytes_getElem d hi)
  have hother : ∀ b, (∀ i < 4, b ≠ (a + BitVec.ofNat 32 i).toNat) → (writeBytes a (wordBytes d) s).readByte b = s.readByte b :=
    fun b hb => readByte_writeBytes_other (bytes := wordBytes d) hb s
  refine ⟨_, hexec, rfl, hsame, hother, ?frame⟩
  case frame =>
    rw [writeBytes_eq]
    exact ⟨rfl, rfl, rfl, rfl, rfl, ⟨rfl, rfl⟩, ⟨rfl, rfl, rfl, rfl, rfl, rfl, rfl⟩⟩

end Sys2Proof.Machine
end

section
/-! A command neither reads nor writes what is not the block or the peripherals' record (10_state.md R14,
70_reset_and_hazards.md R155): on another client its body ends in the same way, with the same block. -/

namespace Sys2Proof.Machine

/-- The block and the peripherals' record of `s`, with the ports, the Scheduler and the host's side of `c`. -/
def State.onClient (s c : State) : State :=
  { c with
    cfg := s.cfg, tc := s.tc, cp := s.cp, ic := s.ic, ram := s.ram, fatal := s.fatal
    periphLog := s.periphLog, draws := s.draws }

/-- The outcome on another client. -/
def Ended.onClient {α : Type} (r : Ended α) (c : State) : Ended α :=
  match r with
  | .ok v s => .ok v (s.onClient c)
  | .abort f s => .abort f (s.onClient c)
  | .fatal reason info s => .fatal reason info (s.onClient c)

section
variable (s c : State)

@[simp] theorem onClient_cfg : (s.onClient c).cfg = s.cfg := rfl
@[simp] theorem onClient_tc : (s.onClient c).tc = s.tc := rfl
@[simp] theorem onClient_cp : (s.onClient c).cp = s.cp := rfl
@[simp] theorem onClient_ic : (s.onClient c).ic = s.ic := rfl
@[simp] theorem onClient_fatal : (s.onClient c).fatal = s.fatal := rfl

theorem walk_onClient (va : Word) (w p : Bool) : walk (s.onClient c) va w p = walk s va w p :=
  walk_congr rfl rfl rfl va w p

theorem memWrite_onClient (pa : Word) (w : Width) (v : Word) :
    memWrite (s.onClient c) pa w v = (memWrite s pa w v).onClient c := by
  cases w <;> rfl

theorem memRead_onClient (pa : Word) (w : Width) : memRead (s.onClient c) pa w = memRead s pa w := by
  cases w <;> rfl

theorem translate_onClient (va : Word) (w p f : Bool) :
    translate va w p f (s.onClient c) = (translate va w p f s).onClient c := by
  unfold translate
  rw [walk_onClient]
  cases walk s va w p <;> rfl

theorem takeAlignment_onClient (va : Word) (w f : Bool) :
    (takeAlignment va w f (s.onClient c) : Ended Word) = (takeAlignment va w f s).onClient c := by
  unfold takeAlignment
  rw [onClient_cfg]
  cases s.cfg.alignRecords <;> rfl

theorem accessAt_onClient (va : Word) (w : Width) (k : AccessKind) (pa : Word) :
    accessAt va w k pa (s.onClient c) = (accessAt va w k pa s).onClient c := by
  unfold accessAt
  rw [onClient_cfg]
  cases route s.cfg pa with
  | none => rfl
  | periph id off => cases k <;> rfl
  | ram =>
    cases alignedFor w pa with
    | false => exact takeAlignment_onClient s c va k.isWrite k.isFetch
    | true =>
      cases k with
      | store v => exact congrArg (Ended.ok 0) (memWrite_onClient s c pa w v)
      | load | fetch => exact congrArg (fun v => Ended.ok v (s.onClient c)) (memRead_onClient s c pa w)

end

/-- The parts of a command, one after the other, on another client. -/
theorem andThen_onClient {α β : Type} (r : Ended α) {k : α → State → Ended β} (c : State)
    (hk : ∀ v s, k v (s.onClient c) = (k v s).onClient c) : (r.onClient c).andThen k = (r.andThen k).onClient c := by
  cases r with
  | ok v s => exact hk v s
  | abort f s => rfl
  | fatal reason info s => rfl

theorem access_onClient (s c : State) (va : Word) (w : Width) (p : Bool) (k : AccessKind) :
    access va w p k (s.onClient c) = (access va w p k s).onClient c := by
  rw [access, translate_onClient]
  exact andThen_onClient _ c fun pa t => accessAt_onClient t c va w k pa

theorem storePieces_onClient (s c : State) (a : Word) (w : Width) (pieces : List (Word × Word)) :
    storePieces a w pieces (s.onClient c) = (storePieces a w pieces s).onClient c := by
  induction pieces generalizing s with
  | nil => rfl
  | cons piece rest ih =>
    rw [storePieces, access_onClient]
    exact andThen_onClient _ c fun _ t => ih t

theorem storeUnaligned_onClient (s c : State) (a d : Word) :
    storeUnaligned a d (s.onClient c) = (storeUnaligned a d s).onClient c := by
  unfold storeUnaligned
  split <;> exact storePieces_onClient s c _ _ _

section
variable (s c : State)

theorem readOther_onClient (key : Key) : readOther key (s.onClient c) = (readOther key s).onClient c := by
  unfold readOther
  rw [onClient_cfg]
  cases extraSlot s.cfg key with
  | none => rfl
  | some e =>
    dsimp only
    cases e.policy <;> cases e.read <;> rfl

theorem writeOther_onClient (key : Key) (v : Word) : writeOther key v (s.onClient c) = (writeOther key v s).onClient c := by
  unfold writeOther
  rw [onClient_cfg]
  cases extraSlot s.cfg key with
  | none => rfl
  | some e =>
    dsimp only
    cases e.policy <;> cases e.write <;> rfl

theorem writeSctlr_onClient (v : Word) : writeSctlr v (s.onClient c) = (writeSctlr v s).onClient c := by
  unfold writeSctlr
  split <;> rfl

theorem writeTtbcr_onClient (v : Word) : writeTtbcr v (s.onClient c) = (writeTtbcr v s).onClient c := by
  unfold writeTtbcr
  split <;> rfl

theorem raiseIrq_onClient (irq : Irq) : raiseIrq irq (s.onClient c) = (raiseIrq irq s).onClient c := by
  unfold raiseIrq
  rw [onClient_cfg, onClient_ic]
  split_ifs <;> rfl

theorem acceptIrq_onClient : acceptIrq (s.onClient c) = (acceptIrq s).onClient c := by
  unfold acceptIrq
  rw [onClient_cfg, onClient_ic]
  cases s.ic.pending with
  | nil => rfl
  | cons irq rest => cases queueFull s.cfg s.ic.acknowledged <;> rfl

theorem completeIrq_onClient (irq : Irq) : completeIrq irq (s.onClient c) = (completeIrq irq s).onClient c := by
  unfold completeIrq
  rw [onClient_cfg, onClient_ic]
  split
  · rfl
  · cases s.ic.acknowledged with
    | nil => rfl
    | cons oldest rest =>
      dsimp only
      split <;> rfl

theorem bodyOf_onClient (i : Instr) : bodyOf i (s.onClient c) = (bodyOf i s).onClient c := by
  cases i
  case xlatUR | xlatUW | xlatPR | xlatPW => exact translate_onClient s c _ _ _ _
  case ldb | ldh | ldw | fetch | stb | sth | stw => exact access_onClient s c _ _ _ _
  case storeu a d => exact storeUnaligned_onClient s c a d
  case cprOther key => exact readOther_onClient s c key
  case cpwOther key v => exact writeOther_onClient s c key v
  case cpwSctlr v => exact writeSctlr_onClient s c v
  case cpwTtbcr v => exact writeTtbcr_onClient s c v
  case irqraise irq => exact raiseIrq_onClient s c irq
  case irqaccept => exact acceptIrq_onClient s c
  case irqeoi irq => exact completeIrq_onClient s c irq
  all_goals rfl

end

theorem onClient_of_same {s t : State} (hb : SameBlock s t) (hp : SamePeripherals s t) : t = s.onClient t := by
  obtain ⟨hcfg, htc, hcp, hic, hram, hfatal⟩ := hb
  obtain ⟨hlog, hdraws⟩ := hp
  unfold State.onClient
  rw [hcfg, htc, hcp, hic, hram, hfatal, hlog, hdraws]

/-- The same outcome gives the same response, and the same block and peripherals' record beneath it. -/
theorem conclude_onClient (r : Ended Word) (c : State) :
    SameBlock (conclude r) (conclude (r.onClient c)) ∧ SamePeripherals (conclude r) (conclude (r.onClient c))
      ∧ (conclude r).response = (conclude (r.onClient c)).response := by
  cases r with
  | ok v s => exact ⟨⟨rfl, rfl, rfl, rfl, rfl, rfl⟩, ⟨rfl, rfl⟩, rfl⟩
  | abort f s => exact ⟨⟨rfl, rfl, rfl, rfl, rfl, rfl⟩, ⟨rfl, rfl⟩, rfl⟩
  | fatal reason info s =>
    simp only [Ended.onClient, conclude_fatal, State.setFatal, onClient_fatal]
    cases s.fatal <;> exact ⟨⟨rfl, rfl, rfl, rfl, rfl, rfl⟩, ⟨rfl, rfl⟩, rfl⟩

/-- Settles O60: the second state is the first one's block on its own client, and the Halted check reads the block only. -/
theorem sameBlockGivesSameAnswers : Obligations.SameBlockGivesSameAnswers := by
  unfold Obligations.SameBlockGivesSameAnswers
  intro i s t s' t' hb hp hs ht
  rw [onClient_of_same hb hp] at ht
  by_cases hl : s.fatal = none
  · rw [exec_live hl] at hs
    rw [exec_live (s := s.onClient t) hl, bodyOf_onClient] at ht
    cases hs
    cases ht
    exact conclude_onClient (bodyOf i s) t
  · rw [exec_halted hl] at hs
    rw [exec_halted (s := s.onClient t) hl] at ht
    cases hs
    cases ht
    exact ⟨⟨rfl, rfl, rfl, rfl, rfl, rfl⟩, ⟨rfl, rfl⟩, rfl⟩

end Sys2Proof.Machine
end

section
/-! The Scheduler's step (60_exceptions.md R137 to R143): when it accepts an interrupt, what a halted core does, where aborts
go, when step 8 stops the run, and that a Fatal stops it for good. -/

namespace Sys2Proof.Machine

/-! ### Step 1 -/

theorem beforeFetch_phase_ne_accept (s : State) : (beforeFetch s).phase ≠ .accept := by
  obtain h | h := beforeFetch_phase s <;> rw [h] <;> decide

/-- The three conditions of an acceptance (R139). -/
def Interruptible (s : State) (mask : Bool) : Prop :=
  s.sched.opts.suppressInterrupts = false ∧ mask = false ∧ s.ic.enabled = true ∧ s.ic.pending ≠ []

/-- Step 1 goes on to the acceptance where all three conditions hold, and else to steps 2 and 3 with the state as it was but
for the answer of IRQPEND. -/
theorem schedPoll_outcome {s : State} (mask : Bool) (hp : s.phase = .top) (hl : s.live) :
    (Interruptible s mask ∧ schedPoll mask s = .next ((s.respond (.ok 1)).setPhase .accept))
      ∨ ¬Interruptible s mask ∧ (schedPoll mask s = .next (beforeFetch s)
        ∨ schedPoll mask s = .next (beforeFetch (s.respond (.ok 0)))) := by
  cases hquiet : s.sched.opts.suppressInterrupts || mask with
  | true =>
    refine .inr ⟨fun ⟨hsuppress, hmask, _⟩ => ?_, .inl (schedPoll_quiet hp hquiet)⟩
    rw [hsuppress, hmask] at hquiet
    cases hquiet
  | false =>
    obtain ⟨hsuppress, hmask⟩ := Bool.or_eq_false_iff.mp hquiet
    have hasks := schedPoll_asks hp hquiet hl
    by_cases hpending : irqPending s.ic = true
    · rw [if_pos hpending] at hasks
      exact .inl ⟨⟨hsuppress, hmask, (irqPending_iff s.ic).mp hpending⟩, hasks⟩
    · rw [if_neg hpending] at hasks
      exact .inr ⟨fun ⟨_, _, hboth⟩ => hpending ((irqPending_iff s.ic).mpr hboth), .inr hasks⟩

/-- Settles O53: step 1 asks for the three conditions in turn, and the acceptance is IRQACCEPT's. -/
theorem interruptsAreAcceptedOnlyWhenAllThreeHold : Obligations.InterruptsAreAcceptedOnlyWhenAllThreeHold := by
  unfold Obligations.InterruptsAreAcceptedOnlyWhenAllThreeHold
  intro s rest hl
  refine ⟨fun mask hin hp => ?poll, fun entry irq q hin hp hq hdepth => ?accept⟩
  case poll =>
    have hstep := step_sched hin
    obtain ⟨hall, h⟩ | ⟨hnot, h | h⟩ := schedPoll_outcome (s := s.took rest) mask hp hl
    · exact ⟨_, hstep.trans h, rfl, iff_of_true rfl hall⟩
    · exact ⟨_, hstep.trans h, by simp, iff_of_false (beforeFetch_phase_ne_accept _) hnot⟩
    · exact ⟨_, hstep.trans h, by simp, iff_of_false (beforeFetch_phase_ne_accept _) hnot⟩
  case accept =>
    have htakes := schedAccept_takes (s := s.took rest) entry hp hl hq ((queueFull_eq_false_iff _ _).mpr hdepth)
    exact ⟨_, (step_sched hin).trans htakes, by simp, by simp, by simp, by simp⟩

/-! ### A halted core -/

/-- Only an acceptance and a restore wake a halted core (R140). -/
theorem perform_halted {e : PortEvent} {s t : State} (h : perform e s = .next t) (hs : s.sched.halted = true)
    (haccept : ∀ entry, e ≠ .sched (.accept entry)) (hrestore : ∀ n, e ≠ .host (.restore n))
    (hsaved : e ≠ .host .restoreSaved) : t.sched.halted = true := by
  obtain ⟨c, hc⟩ | ⟨m, rfl, hm⟩ | ⟨m, rfl, hm⟩ := perform_cases h
  · obtain ⟨b, u, -, hclient, rfl⟩ := runCommand_cases hc
    obtain ⟨-, -, hsched, -⟩ := hclient
    exact (observe_step s b u).halted (hsched ▸ hs)
  · obtain ⟨u, rfl | ⟨i, b, hu, -⟩, hstep⟩ | ⟨-, -, rfl⟩ | ⟨-, rfl⟩ | ⟨entry, v, u, rfl, -⟩ := schedMove_cases hm
    · exact hstep.halted hs
    · obtain ⟨-, -, hsched, -⟩ := exec_client hu
      exact hstep.halted (hsched ▸ hs)
    · exact hs
    · exact hs
    · exact absurd rfl (haccept entry)
  · obtain ⟨-, rfl⟩ | ⟨n, rfl | rfl, -⟩ | ⟨addr, bytes, -, -, rfl⟩ := hostMove_cases hm
    · exact hs
    · exact absurd rfl (hrestore n)
    · exact absurd rfl hsaved
    · rw [writeBytes_eq]
      exact hs

/-- Settles O54: step 1 of a halted core that accepts nothing ends the batch, and `perform_halted` lists what wakes it. -/
theorem aHaltedCoreOnlyPolls : Obligations.AHaltedCoreOnlyPolls := by
  unfold Obligations.AHaltedCoreOnlyPolls
  refine ⟨fun s rest mask hl hin hp hhalted hnot => ?polls, fun s t h hs ht => ?wakes⟩
  case polls =>
    have hstep := step_sched hin
    obtain ⟨hall, -⟩ | ⟨-, h | h⟩ := schedPoll_outcome (s := s.took rest) mask hp hl
    · exact absurd hall hnot
    · rw [beforeFetch_halt (s := s.took rest) hhalted] at h
      exact ⟨_, hstep.trans h, rfl, rfl, rfl, rfl, ⟨rfl, rfl, rfl, rfl, rfl, rfl⟩⟩
    · rw [beforeFetch_halt (s := (s.took rest).respond (.ok 0)) hhalted] at h
      exact ⟨_, hstep.trans h, rfl, rfl, rfl, rfl, ⟨rfl, rfl, rfl, rfl, rfl, rfl⟩⟩
  case wakes =>
    cases hin : s.inbox with
    | nil =>
      rw [step_nil hin] at h
      cases h
      cases hs.symm.trans ht
    | cons e rest =>
      refine ⟨rest, ?_⟩
      rw [step_cons hin] at h
      by_contra hnone
      simp only [List.cons.injEq, and_true, not_or, not_exists] at hnone
      obtain ⟨haccept, hrestore, hsaved⟩ := hnone
      cases (perform_halted h hs haccept hrestore hsaved).symm.trans ht

/-! ### Where aborts go -/

/-- An aborted FETCH of the Scheduler is redirected to the prefetch-abort entry (R141). -/
theorem schedFetch_abort {priv : Bool} {s u : State} {f : Abort} (entry : Word) (hp : s.phase = .fetch)
    (hu : exec (.fetch priv s.sched.pc) s = .next u) (hf : u.response = some (.abort f)) :
    schedFetch priv entry s = .next (redirect entry (u.markFetched true)) := by
  have hfetch : execFetch priv s.sched.pc s = .next u := hu
  simp only [schedFetch, hp, if_true, hfetch, andNext, markFetched_response, hf]
  rfl

theorem redirect_phase (entry : Word) (s : State) :
    (redirect entry s).phase = .top ∨ (redirect entry s).phase = .between := by
  simp only [redirect, endStep_phase]
  split
  · exact .inr rfl
  · exact .inl rfl

/-- An aborted command of the executing core waits for its redirection (R134; log 15). -/
theorem observeInstr_abort {before u : State} {f : Abort} (i : Instr) (hp : u.phase = .execute)
    (hf : u.response = some (.abort f)) :
    observeInstr before i u = (u.markFetched (isFetchCommand i)).setPhase (abortPhase f) := by
  obtain ⟨r, hr, -⟩ | ⟨f', hf', -, h⟩ | ⟨hno, -⟩ := observe_cases before (isFetchCommand i) u
  · cases hr.symm.trans hf
  · cases hf'.symm.trans hf
    exact h
  · exact absurd hf (hno hp f)

/-- Settles O55: the FETCH's abort is redirected at once; a command's waits in the phase its flag names, and is redirected
there. -/
theorem abortsGoToTheCoresEntries : Obligations.AbortsGoToTheCoresEntries := by
  unfold Obligations.AbortsGoToTheCoresEntries
  intro s rest s'
  refine ⟨fun priv entry u f hin hp hu hf => ?fetch, fun c i u f hin hp hd hu hf => ?command, fun entry hin => ?redirected⟩
  case fetch =>
    have hstep := (step_sched hin).trans (schedFetch_abort (s := s.took rest) entry hp hu hf)
    obtain ⟨-, -, hsched, -⟩ := exec_client hu
    refine ⟨_, hstep, ?_, rfl, redirect_phase entry _⟩
    rw [show s.sched = u.sched from hsched]
    rfl
  case command =>
    obtain ⟨-, -, hsched, hphase, -⟩ := exec_client hu
    have hexecute : u.phase = .execute := hphase.symm.trans hp
    have hstep := (step_command hin).trans (runCommand_ok (s := s.took rest) hd hu)
    rw [observeInstr_abort i hexecute hf] at hstep
    obtain ⟨v, hb, -⟩ := exec_abort hu hf
    obtain ⟨hfetch, -⟩ := bodyOf_abort hb
    refine ⟨_, hstep, hsched.symm, rfl, fun hi => ?_, fun hi => ?_⟩
    · exact abortPhase_fetch (hfetch.trans ((isFetchCommand_iff i).mpr hi))
    · refine abortPhase_data (hfetch.trans ?_)
      rw [← Bool.not_eq_true, isFetchCommand_iff]
      exact fun ⟨p, a, hpa⟩ => hi p a hpa
  case redirected =>
    obtain ⟨hin, hp⟩ | ⟨hin, hp⟩ := hin
    · have hfinish : schedFinish (.dataAbort entry) (s.took rest) = .next (redirect entry (s.took rest)) := by
        simp only [schedFinish, took_phase, hp]
      exact ⟨_, (step_sched hin).trans hfinish, rfl, ⟨rfl, rfl, rfl, rfl, rfl, rfl⟩, redirect_phase entry _⟩
    · have hfinish : schedFinish (.prefetchAbort entry) (s.took rest) = .next (redirect entry (s.took rest)) := by
        simp only [schedFinish, took_phase, hp]
      exact ⟨_, (step_sched hin).trans hfinish, rfl, ⟨rfl, rfl, rfl, rfl, rfl, rfl⟩, redirect_phase entry _⟩

/-! ### Step 8 -/

/-- A stop condition of step 8 holds (R142), at the ExecutionState before it. -/
theorem stopDue_retired_iff (e : ExecState) (target : Option Word) (call : Bool) :
    stopDue (retired e target) target.isSome call = true ↔
      e.opts.stopCounter = some (e.icount + 1) ∨ (e.opts.stopAtEveryBranch = true ∧ target ≠ none)
        ∨ (e.opts.stopAtEveryFunccall = true ∧ call = true) ∨ e.remaining.map (· - 1) = some 0 := by
  simp only [stopDue, retired, Bool.or_eq_true, Bool.and_eq_true, beq_iff_eq, Option.isSome_iff_ne_none, or_assoc]

/-- Step 8 of a complete instruction, and of one whose condition fails (R138). -/
theorem step_retires {s : State} {rest : List PortEvent} {target : Option Word} {call wfi : Bool}
    (h : (s.phase = .execute ∧ s.inbox = .sched (.finish (.completed target call wfi)) :: rest)
      ∨ (s.phase = .decode ∧ s.inbox = .sched (.decoded .conditionFails) :: rest ∧ target = none ∧ call = false ∧ wfi = false)) :
    step s = .next (retire target call ((s.took rest).setHalted (s.sched.halted || wfi))) := by
  obtain ⟨hp, hin⟩ | ⟨hp, hin, rfl, rfl, rfl⟩ := h
  · rw [step_sched hin]
    simp only [schedMove, schedFinish, took_phase, hp, took_sched]
  · rw [step_sched hin]
    simp only [schedMove, schedDecoded, took_phase, hp, if_true, Bool.or_false]
    rfl

/-- Settles O56: the ExecutionState after step 8 is `retired`, stopped exactly where a stop condition holds. -/
theorem stopConditionsOfStepEight : Obligations.StopConditionsOfStepEight := by
  unfold Obligations.StopConditionsOfStepEight
  intro s rest target call wfi hin pc' left stops
  have hstep := step_retires hin
  generalize hv : (s.took rest).setHalted (s.sched.halted || wfi) = v at hstep
  have hblock : SameBlock s v := hv ▸ ⟨rfl, rfl, rfl, rfl, rfl, rfl⟩
  have hsched : v.sched = { s.sched with halted := s.sched.halted || wfi } := by rw [← hv]; rfl
  have hleft : v.batchLeft = s.batchLeft := by rw [← hv]; rfl
  have hiff : stopDue (retired v.sched target) target.isSome call = true ↔ stops := by
    rw [stopDue_retired_iff, hsched]
  refine ⟨_, hstep, ?_, ?_, ?_, ?_, sameBlock_trans hblock (retire_block target call v), fun hs => ?stop, fun hs => ?goesOn⟩
  case stop =>
    rw [retire_stops (hiff.mpr hs)]
    refine ⟨rfl, rfl, ?_⟩
    simp [stopRun, retired, hsched, pc']
  case goesOn =>
    rw [retire_goes_on (hiff.not.mpr hs)]
    simp [retired, hsched, hleft]
  all_goals
    obtain ⟨-, h⟩ | ⟨-, h⟩ := retire_sched target call v <;> rw [h, hsched] <;> rfl

/-! ### A Fatal -/

/-- A command sets `S.fatal` only with a FATAL response (10_state.md R34). -/
theorem command_new_fatal {body : State → Ended Word} {s u : State} {r : FatalRecord}
    (hok : ∀ v t, body s = .ok v t → t.fatal = s.fatal) (habort : ∀ f t, body s = .abort f t → t.fatal = s.fatal)
    (h : command body s = .next u) (hl : s.fatal = none) (hr : u.fatal = some r) : ∃ x, u.response = some (.fatal x) := by
  obtain ⟨hset, -⟩ | ⟨-, ⟨v, t, hb, rfl⟩ | ⟨f, t, hb, rfl⟩ | ⟨x, info, t, hb, rfl⟩⟩ := command_cases h
  · exact absurd hl hset
  · cases hr.symm.trans ((hok v t hb).trans hl)
  · cases hr.symm.trans ((habort f t hb).trans hl)
  · exact ⟨x, rfl⟩

theorem bodyOf_ok_fatal {i : Instr} {s t : State} {v : Word} (h : bodyOf i s = .ok v t) : t.fatal = s.fatal := by
  by_cases hbus : usesBus i = true
  · have hframe := bodyOf_busFrame hbus s
    rw [h] at hframe
    exact hframe.fatal
  · have hprecise := (bodyOf_controls (by simpa using hbus) s).precise
    rw [h] at hprecise
    exact hprecise

theorem exec_new_fatal {i : Instr} {s u : State} {r : FatalRecord} (h : exec i s = .next u) (hl : s.fatal = none)
    (hr : u.fatal = some r) : ∃ x, u.response = some (.fatal x) :=
  command_new_fatal (fun _ _ => bodyOf_ok_fatal) (fun _ _ hb => (bodyOf_abort hb).2.fatal)
    ((exec_eq_command i s).symm.trans h) hl hr

theorem execIllegal_new_fatal {cmd : Word} {s u : State} {r : FatalRecord} (h : execIllegal cmd s = .next u)
    (hl : s.fatal = none) (hr : u.fatal = some r) : ∃ x, u.response = some (.fatal x) :=
  command_new_fatal (body := illegal cmd) (fun _ _ hb => by cases hb) (fun _ _ hb => by cases hb) h hl hr

/-- The run is stopped and the first Fatal reported (R143). -/
def StoppedByFatal (s t : State) (r : FatalRecord) : Prop :=
  t.sched.running = false ∧ t.phase = .between ∧ t.sched.pc = s.sched.pc
    ∧ t.notices = s.notices ++ [.fatal r.reason r.info s.sched.pc]

theorem observeFatal_stops {s u : State} {x : FatalReason} {r : FatalRecord} (hclient : ClientFrame s u)
    (hx : u.response = some (.fatal x)) (hl : s.fatal = none) (hr : u.fatal = some r) (b : Bool) :
    StoppedByFatal s (observeFatal s (u.markFetched b)) r := by
  obtain ⟨-, -, hsched, -, -, hnotices, -⟩ := hclient
  rw [observeFatal_first (s := u.markFetched b) hx hl hr]
  refine ⟨rfl, rfl, ?_, ?_⟩
  · simp [hsched]
  · simp [hsched, hnotices]

theorem runCommand_stops {c : Command} {s t : State} {r : FatalRecord} (h : runCommand c s = .next t) (hl : s.fatal = none)
    (hr : t.fatal = some r) : StoppedByFatal s t r := by
  obtain ⟨b, u, hu, hclient, rfl⟩ := runCommand_cases h
  obtain ⟨-, -, -, -, -, hfatal⟩ := (observe_step s b u).block
  have hru : u.fatal = some r := hfatal.trans hr
  obtain ⟨x, hx⟩ : ∃ x, u.response = some (.fatal x) := by
    obtain ⟨i, hu⟩ | hu := hu
    · exact exec_new_fatal hu hl hru
    · exact execIllegal_new_fatal hu hl hru
  obtain ⟨x', -, h⟩ | ⟨f, hf, -⟩ | ⟨-, hno, -⟩ := observe_cases s b u
  · rw [h]
    exact observeFatal_stops hclient hx hl hru b
  · cases hf.symm.trans hx
  · exact absurd hx (hno x)

theorem schedMove_stops {m : SchedMove} {s t : State} {r : FatalRecord} (h : schedMove m s = .next t) (hl : s.fatal = none)
    (hr : t.fatal = some r) : StoppedByFatal s t r := by
  obtain ⟨u, rfl | ⟨i, b, hu, hobserved⟩, hstep⟩ | ⟨-, -, rfl⟩ | ⟨-, rfl⟩ | ⟨entry, v, u, -, hu, hv, rfl⟩ := schedMove_cases h
  · obtain ⟨-, -, -, -, -, hfatal⟩ := hstep.block
    cases hl.symm.trans (hfatal.trans hr)
  · obtain ⟨-, -, -, -, -, hfatal⟩ := hstep.block
    obtain ⟨x, hx⟩ := exec_new_fatal hu hl (hfatal.trans hr)
    rw [hobserved x hx]
    exact observeFatal_stops (exec_client hu) hx hl (hfatal.trans hr) b
  · cases hl.symm.trans hr
  · cases hl.symm.trans hr
  · rw [beforeFetch_fatal] at hr
    obtain ⟨x, hx⟩ := exec_new_fatal hu hl hr
    cases hv.symm.trans hx

theorem SchedStep.stays_stopped {s t : State} (h : SchedStep s t) (hrun : s.sched.running = false) :
    t.sched.running = false := by
  by_contra hn
  cases hrun.symm.trans (h.running (Bool.eq_true_of_not_eq_false hn))

/-- After a Fatal a command is answered Halted and keeps the record (10_state.md R34). -/
theorem runCommand_keeps_stopped {c : Command} {s t : State} (h : runCommand c s = .next t) (hset : s.fatal ≠ none)
    (hrun : s.sched.running = false) : t.sched.running = false ∧ t.fatal = s.fatal := by
  obtain ⟨b, u, hu, hclient, rfl⟩ := runCommand_cases h
  obtain ⟨-, -, hsched, -⟩ := hclient
  have hstep := observe_step s b u
  obtain ⟨-, -, -, -, -, hfatal⟩ := hstep.block
  have hufatal : u.fatal = s.fatal := by
    obtain ⟨i, hu⟩ | hu := hu
    · cases (exec_halted hset i).symm.trans hu
      rfl
    · cases (command_halted hset (illegal c.cmd)).symm.trans hu
      rfl
  exact ⟨hstep.stays_stopped (hsched ▸ hrun), hfatal.symm.trans hufatal⟩

theorem schedMove_keeps_stopped {m : SchedMove} {s t : State} (h : schedMove m s = .next t) (hset : s.fatal ≠ none)
    (hrun : s.sched.running = false) : t.sched.running = false ∧ t.fatal = s.fatal := by
  obtain ⟨u, hu, hstep⟩ | ⟨-, hl, -⟩ | ⟨-, rfl⟩ | ⟨entry, v, u, -, hu, hv, -⟩ := schedMove_cases h
  · obtain ⟨-, -, -, -, -, hfatal⟩ := hstep.block
    have hsame : u.fatal = s.fatal ∧ u.sched = s.sched := by
      obtain rfl | ⟨i, b, hu, -⟩ := hu
      · exact ⟨rfl, rfl⟩
      · cases (exec_halted hset i).symm.trans hu
        exact ⟨rfl, rfl⟩
    obtain ⟨hufatal, husched⟩ := hsame
    exact ⟨hstep.stays_stopped (husched ▸ hrun), hfatal.symm.trans hufatal⟩
  · exact absurd hl hset
  · exact ⟨hrun, rfl⟩
  · cases (exec_halted hset .irqaccept).symm.trans hu
    cases hv

/-- Settles O57: a Fatal comes with a FATAL response, which is observed; after it every command is answered Halted and a start
changes nothing. -/
theorem aFatalStopsTheRunForGood : Obligations.AFatalStopsTheRunForGood := by
  unfold Obligations.AFatalStopsTheRunForGood
  refine ⟨fun s t e rest r hin hhost h hl hr => ?first, fun s t e rest hin hhost hset hrun h => ?after⟩ <;>
    rw [step_cons hin] at h <;>
    obtain ⟨c, hc⟩ | ⟨m, -, hm⟩ | ⟨m, he, -⟩ := perform_cases h
  case first.inl => exact runCommand_stops (s := s.took rest) hc hl hr
  case first.inr.inl => exact schedMove_stops (s := s.took rest) hm hl hr
  case first.inr.inr => exact absurd he (hhost m)
  case after.inl => exact runCommand_keeps_stopped (s := s.took rest) hc hset hrun
  case after.inr.inl => exact schedMove_keeps_stopped (s := s.took rest) hm hset hrun
  case after.inr.inr => exact absurd he (hhost m)

/-! ### Batches -/

/-- Nothing but the beginning of a batch raises the number of steps left (R137). -/
theorem perform_batch {e : PortEvent} {s t : State} (h : perform e s = .next t) (he : e ≠ .sched .beginBatch) :
    BatchStep s.phase s.batchLeft t.phase t.batchLeft := by
  obtain ⟨c, hc⟩ | ⟨m, rfl, hm⟩ | ⟨m, -, hm⟩ := perform_cases h
  · obtain ⟨b, u, -, hclient, rfl⟩ := runCommand_cases hc
    obtain ⟨-, -, -, hphase, hleft, -⟩ := hclient
    rw [hphase, hleft]
    exact (observe_step s b u).batch
  · obtain ⟨u, rfl | ⟨i, b, hu, -⟩, hstep⟩ | ⟨-, -, rfl⟩ | ⟨rfl, -⟩ | ⟨entry, v, u, -, hu, -, rfl⟩ := schedMove_cases hm
    · exact hstep.batch
    · obtain ⟨-, -, -, hphase, hleft, -⟩ := exec_client hu
      rw [hphase, hleft]
      exact hstep.batch
    · exact .stays _ _
    · exact absurd rfl he
    · obtain ⟨-, -, -, hphase, hleft, -⟩ := exec_client hu
      rw [hphase, hleft]
      exact (beforeFetch_step ((u.setHalted false).setPc entry)).batch
  · obtain ⟨-, rfl⟩ | ⟨n, -, rfl⟩ | ⟨addr, bytes, -, -, rfl⟩ := hostMove_cases hm
    · exact .stays _ _
    · unfold restoreSnapshot
      split <;> exact .stays _ _
    · rw [writeBytes_eq]
      exact .stays _ _

theorem step_batch {s t : State} (h : step s = .next t) (hin : ∀ rest, s.inbox ≠ .sched .beginBatch :: rest) :
    BatchStep s.phase s.batchLeft t.phase t.batchLeft := by
  cases hs : s.inbox with
  | nil =>
    rw [step_nil hs] at h
    cases h
    exact .stays _ _
  | cons e rest =>
    rw [step_cons hs] at h
    exact perform_batch (s := s.took rest) h fun he => hin rest (he ▸ hs)

/-- Every redirection to an entry of the core (R138, R141; log 15). -/
theorem step_redirects {s : State} {rest : List PortEvent} {entry : Word}
    (h : (s.inbox = .sched (.decoded (.undefined entry)) :: rest ∧ s.phase = .decode)
      ∨ (s.inbox = .sched (.finish (.supervisorCall entry)) :: rest ∧ s.phase = .execute)
      ∨ (s.inbox = .sched (.finish (.dataAbort entry)) :: rest ∧ s.phase = .dataAborted)
      ∨ (s.inbox = .sched (.finish (.prefetchAbort entry)) :: rest ∧ s.phase = .prefetchAborted)
      ∨ ∃ priv u f, s.inbox = .sched (.fetch priv entry) :: rest ∧ s.phase = .fetch
        ∧ exec (.fetch priv s.sched.pc) { s with inbox := rest } = .next u ∧ u.response = some (.abort f)) :
    ∃ u, ClientFrame (s.took rest) u ∧ ∃ b, step s = .next (redirect entry (u.markFetched b)) := by
  have hsame : ClientFrame (s.took rest) (s.took rest) := ⟨rfl, sameClient_refl _⟩
  obtain ⟨hin, hp⟩ | ⟨hin, hp⟩ | ⟨hin, hp⟩ | ⟨hin, hp⟩ | ⟨priv, u, f, hin, hp, hu, hf⟩ := h
  case inr.inr.inr.inr =>
    exact ⟨u, exec_client hu, true, (step_sched hin).trans (schedFetch_abort (s := s.took rest) entry hp hu hf)⟩
  all_goals
    refine ⟨s.took rest, hsame, false, ?_⟩
    rw [step_sched hin, markFetched_false]
    simp only [schedMove, schedDecoded, schedFinish, took_phase, hp, if_true]

theorem schedBeginBatch_stopped {s : State} (hp : s.phase = .between) (hrun : s.sched.running = false) :
    schedBeginBatch s = .next s := by
  rw [schedBeginBatch, if_pos hp, if_neg (by simp [hrun])]

theorem schedBeginBatch_running {s : State} (hp : s.phase = .between) (hrun : s.sched.running = true) :
    schedBeginBatch s
      = .next { s with batchLeft := batchSize s, phase := if batchSize s = 0 then .between else .top } := by
  rw [schedBeginBatch, if_pos hp, if_pos hrun]

/-- Settles O58: a batch begins with `batchSize` steps, `step_batch` bounds every other step, and each move that ends a step
uses it up or ends the batch. -/
theorem batchesAreBoundedAndCancelIsSeenAtTheTop : Obligations.BatchesAreBoundedAndCancelIsSeenAtTheTop := by
  unfold Obligations.BatchesAreBoundedAndCancelIsSeenAtTheTop
  intro s rest
  refine ⟨fun hin hp => ?begins, fun t h hin => step_batch h hin, fun entry h => ?redirects,
    fun target call wfi h => ?completes, fun hin => ?cancels⟩
  case begins =>
    have hstep := step_sched hin
    refine ⟨fun hrun => hstep.trans (schedBeginBatch_stopped (s := s.took rest) hp hrun), fun hrun =>
      ⟨_, hstep.trans (schedBeginBatch_running (s := s.took rest) hp hrun), rfl, ?_, rfl, rfl, rfl, rfl, rfl, rfl, rfl⟩⟩
    by_cases hn : batchSize (s.took rest) = 0
    · simp [hn]
    · simp [hn, Nat.pos_of_ne_zero hn]
  case redirects =>
    obtain ⟨u, ⟨-, -, hsched, -, hleft, -⟩, b, hstep⟩ := step_redirects h
    rw [took_sched] at hsched
    rw [took_batchLeft] at hleft
    refine ⟨_, hstep, ?_, ?_, ?_⟩
    · rw [hsched]
      rfl
    · rw [hleft]
      rfl
    · rw [hleft]
      rfl
  case completes =>
    obtain ⟨target', call', v, hstep, hleft⟩ : ∃ target' call' v, step s = .next (retire target' call' v)
        ∧ v.batchLeft = s.batchLeft := by
      obtain ⟨hin, hp⟩ | ⟨hin, hp⟩ := h
      · exact ⟨_, _, _, step_retires (.inl ⟨hp, hin⟩), rfl⟩
      · exact ⟨_, _, _, step_retires (.inr ⟨hp, hin, rfl, rfl, rfl⟩), rfl⟩
    refine ⟨_, hstep, ?_⟩
    obtain ⟨hused, hphase⟩ | hended := retire_batch target' call' v
    · rw [hused, hphase, hleft]
      by_cases hn : s.batchLeft - 1 = 0
      · exact .inr ⟨if_pos hn, hn⟩
      · exact .inl ⟨if_neg hn, rfl, Nat.pos_of_ne_zero hn⟩
    · exact .inr hended
  case cancels => exact step_sched hin

end Sys2Proof.Machine
end
